-- ==== Sys2Proof/Word.lean ====
section
/-! DEFINITION. The byte, the four special byte values of the wire format, and the decoder's two modes. -/

namespace Sys2Proof

/-- One stream symbol, BYTE_W = 8 bits (00_scope R10, R12). It is only compared, copied and concatenated. -/
abbrev Byte := BitVec 8

/-- END, the frame delimiter (30_encoding R60). -/
abbrev END : Byte := 0xC0#8

/-- ESC, the escape introducer (30_encoding R60). -/
abbrev ESC : Byte := 0xDB#8

/-- ESC_END, which stands for a literal END after ESC (30_encoding R60). -/
abbrev ESC_END : Byte := 0xDC#8

/-- ESC_ESC, which stands for a literal ESC after ESC (30_encoding R60). -/
abbrev ESC_ESC : Byte := 0xDD#8

/-- The decoder's mode: exactly two values (00_scope R11, 10_state R21). -/
inductive Mode where
  | normal
  | escaped
  deriving DecidableEq, Repr

end Sys2Proof
end

