-- ==== Sys2Proof/Config.lean ====
section
/-! DEFINITION. The implementation parameters of 00_scope R10 and the one free value of the spec, FaultDraw. -/

namespace Sys2Proof

/-- What one FaultDraw() answers (40_decoder R80, R88). -/
inductive Draw where
  | none
  | before
  | after
  deriving DecidableEq, Repr, Inhabited

/-- The free draw of 40_decoder R88: draw number `draw` of instance `link`. It has no body, so nothing is known of its
values ("a free draw for each RX_BYTE, with no law over its values"). Log entry 4. -/
opaque Config.faultDraw (link draw : Nat) : Draw

/-- The OPEN parameters of 00_scope R10 that are values of their own (N_LINKS is the number of instances in State). They
are arguments of the model: State holds them, no operation writes them, and statements hold for each value. Log entry 2. -/
structure Params where
  /-- BUF_CAP: the most bytes the partial buffer can hold; `none` means unbounded. -/
  bufCap : Option Nat
  /-- MAX_TX_LEN: the longest datagram TX_DATAGRAM accepts; `none` means unbounded. -/
  maxTxLen : Option Nat
  /-- ADMIT_SPONTANEOUS_FAULT: whether RX_BYTE draws spontaneous faults. -/
  admitSpontaneousFault : Bool
  deriving DecidableEq, Repr

/-- What 00_scope R10 asks of the parameters: BUF_CAP = some k requires k ≥ 1. -/
def Params.wf (p : Params) : Bool := p.bufCap != some 0

/-- The source's behaviour: both lengths unbounded and no spontaneous fault (00_scope R10, decisions D6, D7, D11).
DESIGN CHOICE where the spec leaves the parameter OPEN; unsafe for a claim that rests on it. Log entry 2. -/
def Params.source : Params := { bufCap := none, maxTxLen := none, admitSpontaneousFault := false }

end Sys2Proof
end

