-- ==== Sys2Proof/Syntax.lean ====
section
/-! DEFINITION. The twelve operations of spec/opcode_table.json, one constructor per row. -/

namespace Sys2Proof

/-- One row of spec/opcode_table.json each: the three commands (CMD10), the six decoder transitions (DKEY9), the three
encoder substitutions (EBYTE8). -/
inductive Instr where
  /-- RESET (42_control R130). -/
  | reset
  /-- RX_BYTE b (40_decoder R80). -/
  | rxByte (b : Byte)
  /-- TX_DATAGRAM d, with its side operand (41_encoder R110). -/
  | txDatagram (d : List Byte)
  /-- D_N_END: END in NORMAL (40_decoder R81). -/
  | dNEnd
  /-- D_N_ESC: ESC in NORMAL (40_decoder R82). -/
  | dNEsc
  /-- D_N_DATA: any other byte in NORMAL (40_decoder R83). -/
  | dNData (b : Byte)
  /-- D_E_ESCEND: ESC_END after ESC (40_decoder R84). -/
  | dEEscEnd
  /-- D_E_ESCESC: ESC_ESC after ESC (40_decoder R85). -/
  | dEEscEsc
  /-- D_E_BAD: any other byte after ESC (40_decoder R86). -/
  | dEBad (b : Byte)
  /-- E_END: substitution of a datagram byte END (41_encoder R113). -/
  | eEnd
  /-- E_ESC: substitution of a datagram byte ESC (41_encoder R113). -/
  | eEsc
  /-- E_LIT: any other datagram byte (41_encoder R113). -/
  | eLit (b : Byte)
  deriving DecidableEq, Repr

end Sys2Proof
end

