-- ==== Sys2Proof/WellFormed.lean ====
section
/-! DEFINITION. Which instruction terms the encoding tables admit: the operand of a default row is a byte no higher row
takes (30_encoding R66, R67). -/

namespace Sys2Proof

/-- The operand restrictions of the three default rows; every other operand value is admitted. -/
def Instr.wf : Instr → Bool
  | .reset => true
  | .rxByte _ => true
  | .txDatagram _ => true
  | .dNEnd => true
  | .dNEsc => true
  | .dNData b => b != END && b != ESC
  | .dEEscEnd => true
  | .dEEscEsc => true
  | .dEBad b => b != ESC_END && b != ESC_ESC
  | .eEnd => true
  | .eEsc => true
  | .eLit b => b != END && b != ESC

end Sys2Proof
end

