-- ==== Sys2Proof/Decode.lean ====
section
/-! DEFINITION. The three encodings of 30_encoding (command word, decoder key, encoder byte) as tables of mask and match,
the total decoder that rejects by name, and the encoder. -/

namespace Sys2Proof

/-- A row of an encoding table: a word `w` matches it when `(w & mask) = match` (30_encoding R75). -/
structure Row (n : Nat) (α : Type) where
  name : α
  pat : BitVec n
  mask : BitVec n

/-- 30_encoding R75: `(w & mask) = match`. -/
def Row.hits {n : Nat} {α : Type} (r : Row n α) (w : BitVec n) : Bool := w &&& r.mask == r.pat

/-- The first row, in the order listed, that matches the word (30_encoding R75). -/
def firstHit {n : Nat} {α : Type} (t : List (Row n α)) (w : BitVec n) : Option α :=
  (t.find? (·.hits w)).map (·.name)

/-- The command rows (format CMD10). -/
inductive CmdRow where
  | reset
  | rxByte
  | txDatagram
  deriving DecidableEq, Repr

/-- The decoder's rows (format DKEY9). -/
inductive DRow where
  | nEnd
  | nEsc
  | nData
  | eEscEnd
  | eEscEsc
  | eBad
  deriving DecidableEq, Repr

/-- The encoder's rows (format EBYTE8). -/
inductive ERow where
  | eEnd
  | eEsc
  | eLit
  deriving DecidableEq, Repr

/-- The command words of 30_encoding R65. -/
def cmdTable : List (Row 10 CmdRow) :=
  [⟨.reset, 0x000#10, 0x3FF#10⟩, ⟨.rxByte, 0x100#10, 0x300#10⟩, ⟨.txDatagram, 0x200#10, 0x3FF#10⟩]

/-- The decoder's table of 30_encoding R66, in its order. -/
def dTable : List (Row 9 DRow) :=
  [⟨.nEnd, 0x0C0#9, 0x1FF#9⟩, ⟨.nEsc, 0x0DB#9, 0x1FF#9⟩, ⟨.nData, 0x000#9, 0x100#9⟩,
   ⟨.eEscEnd, 0x1DC#9, 0x1FF#9⟩, ⟨.eEscEsc, 0x1DD#9, 0x1FF#9⟩, ⟨.eBad, 0x100#9, 0x100#9⟩]

/-- The encoder's table of 30_encoding R67, in its order. -/
def eTable : List (Row 8 ERow) :=
  [⟨.eEnd, 0xC0#8, 0xFF#8⟩, ⟨.eEsc, 0xDB#8, 0xFF#8⟩, ⟨.eLit, 0x00#8, 0x00#8⟩]

/-- NORMAL is 0 and ESCAPED is 1 (10_state R21, decision D5). -/
def Mode.bit : Mode → BitVec 1
  | .normal => 0#1
  | .escaped => 1#1

/-- The mode a key's bit 8 stands for. -/
def Mode.ofBit (b : BitVec 1) : Mode := if b == 1#1 then .escaped else .normal

/-- The key `k = mode·256 + b`, so that `k[8]` is the mode and `k[7:0]` the byte (30_encoding R66). -/
def dKey (m : Mode) (b : Byte) : BitVec 9 := m.bit ++ b

/-- `k[8]` of a key, as a mode. -/
def keyMode (k : BitVec 9) : Mode := Mode.ofBit (k.extractLsb' 8 1)

/-- `k[7:0]` of a key. -/
def keyByte (k : BitVec 9) : Byte := k.extractLsb' 0 8

/-- The transition a key selects (30_encoding R66). Each of the 512 keys matches a row (Laws: `firstHit_dTable_isSome`). -/
def dRowOf (k : BitVec 9) : DRow := (firstHit dTable k).getD .eBad

/-- The substitution a datagram byte selects (30_encoding R67). Every byte matches a row. -/
def eRowOf (b : Byte) : ERow := (firstHit eTable b).getD .eLit

/-- An operation as it is presented: the format says which of the three tables reads it (30_encoding R75). -/
inductive Encoded where
  /-- A command word with the side operand that stands on tx_in (30_encoding R64). -/
  | cmd (w : BitVec 10) (d : List Byte)
  /-- A decoder key (30_encoding R66). -/
  | dkey (k : BitVec 9)
  /-- A datagram byte for the encoder's table (30_encoding R67). -/
  | ebyte (b : BitVec 8)
  /-- Bits in no format of the table. -/
  | stray (nbits w : Nat)
  deriving DecidableEq, Repr

/-- Why an encoded operation is no instruction. -/
inductive DecodeError where
  /-- refuse(RESERVED_COMMAND): a reserved command word (30_encoding R65, R71; 42_control R131). Safe. -/
  | reservedCommand (w : BitVec 10)
  /-- Bytes on the side operand of a command that takes none (30_encoding R64, R72). Safe. Log entry 13. -/
  | strayOperand (w : BitVec 10)
  /-- Bits that are in none of the three formats. Safe. Log entry 11. -/
  | unknownFormat (nbits w : Nat)
  deriving DecidableEq, Repr

/-- `data = w[7:0]` of a command word (30_encoding R64). -/
def cmdData (w : BitVec 10) : Byte := w.extractLsb' 0 8

/-- Total on all 1024 words (30_encoding R65). -/
def decodeCmd (w : BitVec 10) (d : List Byte) : Except DecodeError Instr :=
  match firstHit cmdTable w with
  | none => .error (.reservedCommand w)
  | some .reset => if d.isEmpty then .ok .reset else .error (.strayOperand w)
  | some .rxByte => if d.isEmpty then .ok (.rxByte (cmdData w)) else .error (.strayOperand w)
  | some .txDatagram => .ok (.txDatagram d)

/-- Total on all 512 keys (30_encoding R66). -/
def decodeKey (k : BitVec 9) : Instr :=
  match dRowOf k with
  | .nEnd => .dNEnd
  | .nEsc => .dNEsc
  | .nData => .dNData (keyByte k)
  | .eEscEnd => .dEEscEnd
  | .eEscEsc => .dEEscEsc
  | .eBad => .dEBad (keyByte k)

/-- Total on all 256 bytes (30_encoding R67). -/
def decodeEByte (b : Byte) : Instr :=
  match eRowOf b with
  | .eEnd => .eEnd
  | .eEsc => .eEsc
  | .eLit => .eLit b

/-- The decoder: total, rejecting by name. -/
def decode : Encoded → Except DecodeError Instr
  | .cmd w d => decodeCmd w d
  | .dkey k => .ok (decodeKey k)
  | .ebyte b => .ok (decodeEByte b)
  | .stray nbits w => .error (.unknownFormat nbits w)

/-- The encoder, from the same tables: R65 and R73 for commands, R66 for keys, R67 for datagram bytes. -/
def encode : Instr → Encoded
  | .reset => .cmd 0x000#10 []
  | .rxByte b => .cmd (0b01#2 ++ b) []
  | .txDatagram d => .cmd 0x200#10 d
  | .dNEnd => .dkey (dKey .normal END)
  | .dNEsc => .dkey (dKey .normal ESC)
  | .dNData b => .dkey (dKey .normal b)
  | .dEEscEnd => .dkey (dKey .escaped ESC_END)
  | .dEEscEsc => .dkey (dKey .escaped ESC_ESC)
  | .dEBad b => .dkey (dKey .escaped b)
  | .eEnd => .ebyte END
  | .eEsc => .ebyte ESC
  | .eLit b => .ebyte b

/-- The 16-bit word `w` names no format. It is read as the command it is (op = w[9:8], the bits above 0); a word that is no
command but is a key of the decoder's table is read as that key. So every command word decodes as 30_encoding R65 says,
and the keys that are numerically command words read as the command (RX_BYTE b and the ESCAPED key of b are one number).
DESIGN CHOICE; safe. Log entry 11. -/
def encodedOfWord16 (w : Nat) : Encoded :=
  if 1024 ≤ w then .stray 16 w
  else if (firstHit cmdTable (BitVec.ofNat 10 w)).isSome then .cmd (BitVec.ofNat 10 w) []
  else if w < 512 then .dkey (BitVec.ofNat 9 w)
  else .cmd (BitVec.ofNat 10 w) []

/-- The operation in a table word of `nbits` bits: 8 bits a datagram byte, 9 bits a key, 10 bits a command word, and 16 bits
(ten or nine bits in whole bytes) as `encodedOfWord16` says. A TX_DATAGRAM word carries the empty datagram. Log entry 11. -/
def encodedOfTableWord (nbits w : Nat) : Encoded :=
  if nbits = 8 ∧ w < 256 then .ebyte (BitVec.ofNat 8 w)
  else if nbits = 9 ∧ w < 512 then .dkey (BitVec.ofNat 9 w)
  else if nbits = 10 ∧ w < 1024 then .cmd (BitVec.ofNat 10 w) []
  else if nbits = 16 then encodedOfWord16 w
  else .stray nbits w

/-- The instruction the decoder reads from a word of the opcode table, `none` where it refuses. -/
def decodeTableWord (nbits w : Nat) : Option Instr :=
  match decode (encodedOfTableWord nbits w) with
  | .ok i => some i
  | .error _ => none

end Sys2Proof
end

