-- ==== Sys2Proof/Machine/State.lean ====
section
/-! DEFINITION. The state: the instances with their mode, buffer and output trace, the parameters, the host's pending
requests; the machine after reset; and the reasons a step can stop. -/

namespace Sys2Proof.Machine

/-- The sub-code of an internal fault (60_exceptions R141). -/
inductive Cause where
  | bufOverflow
  | spontaneous
  deriving DecidableEq, Repr

/-- A telemetry event (60_exceptions R141): `cause` is present only for INTERNAL_FAULT; `byte` is the RX_BYTE's byte;
`discarded` is the length of the buffer just before the recovery cleared it. No other code exists. -/
inductive Event where
  | malformedFrame (byte : Byte) (discarded : Nat)
  | internalFault (cause : Cause) (byte : Byte) (discarded : Nat)
  deriving DecidableEq, Repr

/-- A record of the output trace (10_state R25). -/
inductive Rec where
  /-- `Emit(d)`: datagram `d` delivered on rx_out. -/
  | emit (d : List Byte)
  /-- `Tx(f)`: frame `f` written on tx_out. -/
  | tx (f : List Byte)
  /-- `Ev(code, info)`: an event on ev_out. -/
  | ev (e : Event)
  deriving DecidableEq, Repr

/-- Which outputs of an instance the system has connected (70_reset R173, R174). Log entry 10. -/
structure Wiring where
  rxOut : Bool
  txOut : Bool
  evOut : Bool
  deriving DecidableEq, Repr

/-- One instance of the block. `mode` and `buf` are its whole hardware state (10_state R20); the rest is the model's record
of its outputs and of its surroundings. -/
structure Link where
  /-- The decoder mode (10_state R21). -/
  mode : Mode
  /-- The partial buffer, earliest byte first (10_state R22). -/
  buf : List Byte
  /-- The output trace, earliest record first (10_state R25). -/
  trace : List Rec
  /-- The outputs the system has connected (70_reset R173). -/
  wiring : Wiring
  /-- The model's own: how many free draws this instance has taken (40_decoder R88). Log entry 4. -/
  draws : Nat
  /-- The model's own: what the encoder's rows output when they run as operations of their own (41_encoder R113).
  Nothing reads it. Log entry 7. -/
  subTrace : List Byte
  deriving DecidableEq, Repr

/-- An output port that is wired when the system is built (70_reset R173). -/
inductive OutPort where
  | rxOut
  | txOut
  | evOut
  deriving DecidableEq, Repr

/-- One operation presented at the ports of one instance. -/
structure Drive where
  link : Nat
  word : Encoded
  deriving DecidableEq, Repr

/-- A move of the host (70_reset R188). -/
inductive Request where
  /-- One operation. -/
  | drive (d : Drive)
  /-- Two operations offered at the same time (70_reset R180 to R182). Log entries 12 and 18. -/
  | overlap (a b : Drive)
  /-- The system connects an output port (70_reset R174, step (2)). Log entry 10. -/
  | wire (link : Nat) (port : OutPort)
  deriving DecidableEq, Repr

/-- The whole system: N_LINKS instances and the host's pending requests. -/
structure State where
  /-- The OPEN parameters; no step writes them (00_scope R10). Log entry 2. -/
  params : Params
  /-- The instances; their number is N_LINKS (60_exceptions R160). Log entry 3. -/
  links : List Link
  /-- The model's own: what the host drives next, oldest first. Log entry 5. -/
  host : List Request
  /-- The model's own: the instance whose ports the operation at hand stands on (60_exceptions R160). Log entry 9. -/
  sel : Nat
  deriving DecidableEq, Repr

/-- A model that sees an event code that is never produced (60_exceptions R141, 93 U10). -/
inductive Fault where
  /-- Raised by `Event.ofCodes` for an event code 0, 3 and up, or a sub-code that does not fit. No step raises it:
  nothing stops the block (60_exceptions R147). Safe. -/
  | unknownEventCode (code : Nat)
  deriving DecidableEq, Repr

/-- Why the model has no step for what the host drives (00_scope R15, `refuse(reason)`). -/
inductive Refusal where
  /-- Raised by `exec` for an instruction that has no meaning yet. Safe. -/
  | notModelled (mnemonic : String)
  /-- Raised by `step` for bits that are no instruction, a reserved command word among them (42_control R131). Safe. -/
  | undecoded (e : DecodeError)
  /-- Raised by TX_DATAGRAM: refuse(TX_TOO_LONG) (41_encoder R117). Safe. -/
  | txTooLong
  /-- Raised by every operation on an index that is no instance (60_exceptions R160). Safe. -/
  | noSuchInstance
  /-- Raised by every operation on an instance whose outputs are not all wired (70_reset R174). Safe. -/
  | notWired
  /-- Raised by `step` for two RX operations of one instance at the same time (70_reset R180). Safe. -/
  | concurrentRx
  /-- Raised by `step` for two TX operations of one instance at the same time (70_reset R181). Safe. -/
  | concurrentTx
  /-- Raised by a decoder or encoder row on a key or byte that selects another row (30_encoding R66, R67). Safe.
  Log entry 6. -/
  | rowNotSelected
  deriving DecidableEq, Repr

/-- All outputs connected. -/
def Wiring.all : Wiring := { rxOut := true, txOut := true, evOut := true }

/-- No output connected: an instance that is built and not yet wired (70_reset R174, step (1)). -/
def Wiring.unwired : Wiring := { rxOut := false, txOut := false, evOut := false }

/-- An instance at its creation: `{NORMAL, []}` (10_state R29, 70_reset R170) with an empty output trace. -/
def Link.created (w : Wiring) : Link :=
  { mode := .normal, buf := [], trace := [], wiring := w, draws := 0, subTrace := [] }

/-- A system of `n` instances just built, for any parameters. -/
def State.built (p : Params) (n : Nat) (w : Wiring) : State :=
  { params := p, links := List.replicate n (Link.created w), host := [], sel := 0 }

/-- The machine right after reset: `{NORMAL, []}` (10_state R29), outputs wired, nothing driven. The parameters and the
number of instances are OPEN in the spec; here the source's behaviour and one instance (log entries 2, 3, 10). -/
def State.reset : State := State.built Params.source 1 Wiring.all

end Sys2Proof.Machine
end

