-- ==== Sys2Proof/Machine/Ops.lean ====
section
/-! DEFINITION. The named operations: buffer primitives, output primitives, raising an event, and the one way an operation
reaches the instance it is driven on. -/

namespace Sys2Proof.Machine

/-! ## Outputs (00_scope R15, 10_state R25) -/

/-- Appends one record to the output trace. -/
def Link.record (l : Link) (r : Rec) : Link := { l with trace := l.trace ++ [r] }

/-- `Emit(d)` (00_scope R15). -/
def Link.emit (l : Link) (d : List Byte) : Link := l.record (.emit d)

/-- `TxWrite(f)` (00_scope R15, 10_state R34). -/
def Link.txWrite (l : Link) (f : List Byte) : Link := l.record (.tx f)

/-- `Report(code, info)` (00_scope R15, 10_state R35). -/
def Link.report (l : Link) (e : Event) : Link := l.record (.ev e)

/-- What stands on rx_out (10_state R32). -/
def Link.rxOut (l : Link) : List (List Byte) := l.trace.filterMap fun
  | .emit d => some d
  | _ => none

/-- What stands on tx_out (10_state R34). -/
def Link.txOut (l : Link) : List (List Byte) := l.trace.filterMap fun
  | .tx f => some f
  | _ => none

/-- What stands on ev_out (10_state R35). -/
def Link.evOut (l : Link) : List Event := l.trace.filterMap fun
  | .ev e => some e
  | _ => none

/-- The records of the RX agent, in order: `Emit` and `Ev` (20_memory R52). -/
def Link.rxRecords (l : Link) : List Rec := l.trace.filter fun
  | .tx _ => false
  | _ => true

/-! ## Event codes (60_exceptions R141) -/

/-- BUF_OVERFLOW is 0 and SPONTANEOUS is 1. -/
def Cause.code : Cause → Nat
  | .bufOverflow => 0
  | .spontaneous => 1

/-- MALFORMED_FRAME is 1 and INTERNAL_FAULT is 2. -/
def Event.code : Event → Nat
  | .malformedFrame _ _ => 1
  | .internalFault _ _ _ => 2

/-- The sub-code, present only for INTERNAL_FAULT. -/
def Event.subCode : Event → Option Nat
  | .malformedFrame _ _ => none
  | .internalFault c _ _ => some c.code

/-- The byte of the RX_BYTE that raised the event. -/
def Event.byte : Event → Byte
  | .malformedFrame b _ => b
  | .internalFault _ b _ => b

/-- The length of the buffer just before the recovery cleared it. -/
def Event.discarded : Event → Nat
  | .malformedFrame _ n => n
  | .internalFault _ _ n => n

/-- Reads an event from its numbers on ev_out. Codes 0, 3 and up and unassigned sub-codes are never produced, and a
model that sees one treats it as a fault (60_exceptions R141, 93 U10). -/
def Event.ofCodes (code : Nat) (subCode : Option Nat) (byte : Byte) (discarded : Nat) : Except Fault Event :=
  match code, subCode with
  | 1, none => .ok (.malformedFrame byte discarded)
  | 2, some 0 => .ok (.internalFault .bufOverflow byte discarded)
  | 2, some 1 => .ok (.internalFault .spontaneous byte discarded)
  | c, _ => .error (.unknownEventCode c)

/-! ## The buffer (20_memory R40 to R43) -/

/-- `BufClear()` (20_memory R41). -/
def Link.bufClear (l : Link) : Link := { l with buf := [] }

/-- `BufRead()` (20_memory R42). -/
def Link.bufRead (l : Link) : List Byte := l.buf

/-- The clean state `{NORMAL, []}` of 10_state R29, which RESET and both recoveries reach. -/
def Link.clean (l : Link) : Link := { l.bufClear with mode := .normal }

/-! ## Raising (60_exceptions R143, R146) -/

/-- `raise MalformedFrame(b)`: the recovery and the report of 60_exceptions R143. -/
def Link.raiseMalformed (l : Link) (b : Byte) : Link :=
  l.clean.report (.malformedFrame b l.buf.length)

/-- `raise InternalFault(cause, b)`: the recovery and the report of 60_exceptions R146. -/
def Link.raiseInternal (l : Link) (c : Cause) (b : Byte) : Link :=
  l.clean.report (.internalFault c b l.buf.length)

/-- What a transition leaves: the instance, and whether it raised an event (40_decoder R80 asks, for an AFTER draw). -/
structure Stepped where
  link : Link
  raised : Bool
  deriving DecidableEq, Repr

/-- `BufAppend(data)` during RX_BYTE `rx` (20_memory R40): an append to a full buffer is an internal fault, and the byte is
not appended. The event carries `rx`, the byte of the RX_BYTE (60_exceptions R141, 40_decoder R84). Log entry 8. -/
def Link.bufAppend (p : Params) (l : Link) (data rx : Byte) : Stepped :=
  if p.bufCap = some l.buf.length then ⟨l.raiseInternal .bufOverflow rx, true⟩
  else ⟨{ l with buf := l.buf ++ [data] }, false⟩

/-! ## Reaching the instance -/

/-- All three outputs are connected (70_reset R173). -/
def Wiring.ready (w : Wiring) : Bool := w.rxOut && w.txOut && w.evOut

/-- Connects one output port; nothing disconnects one (42_control R132). A port that is connected stays connected and the
wiring is as before: that a second connection is no refusal is the model's choice (DESIGN CHOICE, safe; log entry 10). -/
def Wiring.connect (w : Wiring) : OutPort → Wiring
  | .rxOut => { w with rxOut := true }
  | .txOut => { w with txOut := true }
  | .evOut => { w with evOut := true }

/-- N_LINKS (60_exceptions R160). -/
def State.nLinks (s : State) : Nat := s.links.length

/-- Puts instance `k` back. -/
def State.setLink (s : State) (k : Nat) (l : Link) : State := { s with links := s.links.set k l }

/-- Runs an operation on the selected instance: there must be one (60_exceptions R160) and its outputs must be wired
(70_reset R174). Every operation reaches its instance through this, and touches no other (10_state R26). -/
def State.onLink (s : State) (f : Link → Except Refusal Link) : Host.Outcome State Fault Refusal :=
  match s.links[s.sel]? with
  | none => .refused .noSuchInstance
  | some l =>
    if l.wiring.ready then
      match f l with
      | .ok l' => .next (s.setLink s.sel l')
      | .error r => .refused r
    else .refused .notWired

end Sys2Proof.Machine
end

