-- ==== Sys2Proof/Machine/Control.lean ====
section
/-! DEFINITION. The control operation RESET (42_control). -/

namespace Sys2Proof.Machine

/-- RESET: `BufClear(); mode <- NORMAL`, and no record (42_control R130). It leaves the TX agent and the records already
made alone (70_reset R172). -/
def execReset (s : State) : Host.Outcome State Fault Refusal :=
  s.onLink fun l => .ok l.clean

end Sys2Proof.Machine
end

