-- ==== Sys2Proof/Machine/Flags.lean ====
section
/-! DEFINITION. The one flag of the block, the decoder mode (10_state R21, R23). -/

namespace Sys2Proof.Machine

/-- `mode <- m` (00_scope R14). -/
def Link.setMode (l : Link) (m : Mode) : Link := { l with mode := m }

end Sys2Proof.Machine
end

