-- ==== Sys2Proof/Machine/Operands.lean ====
section
/-! DEFINITION. The operand forms: the byte of RX_BYTE with the key it makes, the side operand of TX_DATAGRAM, and the
operand of a row of a sub-decoder table (30_encoding R66, R67, R72). -/

namespace Sys2Proof.Machine

/-- The row that byte `b` selects in the mode the instance is in (30_encoding R66). -/
def Link.rowFor (l : Link) (b : Byte) : DRow := dRowOf (dKey l.mode b)

/-- TX_DATAGRAM's operand is longer than MAX_TX_LEN (41_encoder R117). -/
def txTooLong (p : Params) (d : List Byte) : Bool :=
  match p.maxTxLen with
  | none => false
  | some m => m < d.length

/-- Runs a decoder row as an operation of its own on byte `b`: the key (mode, b) must select that row. Log entry 6. -/
def Link.onDRow (l : Link) (row : DRow) (b : Byte) (f : Link → Stepped) : Except Refusal Link :=
  if l.rowFor b = row then .ok (f l).link else .error .rowNotSelected

/-- Runs an encoder row as an operation of its own on byte `b`: the byte must select that row. Its output goes to the
substitution outputs. Log entries 6, 7. -/
def Link.onERow (l : Link) (row : ERow) (b : Byte) (out : List Byte) : Except Refusal Link :=
  if eRowOf b = row then .ok { l with subTrace := l.subTrace ++ out } else .error .rowNotSelected

end Sys2Proof.Machine
end

