-- ==== Sys2Proof/Machine/Decoder.lean ====
section
/-! DEFINITION. The RX agent: the six transitions, RX_BYTE, and the meaning of each decoder row (40_decoder). -/

namespace Sys2Proof.Machine

/-! ## The six transitions (40_decoder R81 to R86) -/

/-- D_N_END (40_decoder R81). -/
def Link.transNEnd (l : Link) : Stepped :=
  let l' := if l.buf.length > 0 then l.emit l.bufRead else l
  ⟨l'.bufClear.setMode .normal, false⟩

/-- D_N_ESC (40_decoder R82). -/
def Link.transNEsc (l : Link) : Stepped := ⟨l.setMode .escaped, false⟩

/-- D_N_DATA (40_decoder R83). -/
def Link.transNData (p : Params) (l : Link) (b : Byte) : Stepped := l.bufAppend p b b

/-- D_E_ESCEND (40_decoder R84). -/
def Link.transEEscEnd (p : Params) (l : Link) : Stepped := (l.setMode .normal).bufAppend p END ESC_END

/-- D_E_ESCESC (40_decoder R85). -/
def Link.transEEscEsc (p : Params) (l : Link) : Stepped := (l.setMode .normal).bufAppend p ESC ESC_ESC

/-- D_E_BAD (40_decoder R86). -/
def Link.transEBad (l : Link) (b : Byte) : Stepped := ⟨l.raiseMalformed b, true⟩

/-- The transition of a row on byte `b` (40_decoder R80, the case). -/
def Link.transition (p : Params) (l : Link) (row : DRow) (b : Byte) : Stepped :=
  match row with
  | .nEnd => l.transNEnd
  | .nEsc => l.transNEsc
  | .nData => l.transNData p b
  | .eEscEnd => l.transEEscEnd p
  | .eEscEsc => l.transEEscEsc p
  | .eBad => l.transEBad b

/-! ## RX_BYTE (40_decoder R80, R88) -/

/-- RX_BYTE once `FaultDraw()` has answered `f` (40_decoder R80). -/
def Link.rxByteDrawn (p : Params) (f : Draw) (l : Link) (b : Byte) : Link :=
  match f with
  | .before => l.raiseInternal .spontaneous b
  | .none => (l.transition p (l.rowFor b) b).link
  | .after =>
    let r := l.transition p (l.rowFor b) b
    if r.raised then r.link else r.link.raiseInternal .spontaneous b

/-- `FaultDraw()` of instance `k`: always NONE if not admitted, else a free draw (40_decoder R88). Log entry 4. -/
def Link.faultDraw (p : Params) (k : Nat) (l : Link) : Draw :=
  if p.admitSpontaneousFault then Config.faultDraw k l.draws else .none

/-- The draw just taken is used up. -/
def Link.countDraw (p : Params) (l : Link) : Link :=
  if p.admitSpontaneousFault then { l with draws := l.draws + 1 } else l

/-- RX_BYTE `b` on instance `k` (40_decoder R80). -/
def Link.rxByte (p : Params) (k : Nat) (l : Link) (b : Byte) : Link :=
  (l.countDraw p).rxByteDrawn p (l.faultDraw p k) b

/-- `Decode(σ, s)`: what the sequence of RX_BYTEs yields on an instance (40_decoder R91, R96). -/
def Link.decodeStream (p : Params) (k : Nat) (l : Link) (bs : List Byte) : Link :=
  bs.foldl (fun l b => l.rxByte p k b) l

/-! ## The meanings -/

/-- RX_BYTE (40_decoder R80). It always completes (R90). -/
def execRxByte (b : Byte) (s : State) : Host.Outcome State Fault Refusal :=
  s.onLink fun l => .ok (l.rxByte s.params s.sel b)

/-- D_N_END as an operation of its own (40_decoder R81). -/
def execDNEnd (s : State) : Host.Outcome State Fault Refusal :=
  s.onLink fun l => l.onDRow .nEnd END fun l => l.transNEnd

/-- D_N_ESC as an operation of its own (40_decoder R82). -/
def execDNEsc (s : State) : Host.Outcome State Fault Refusal :=
  s.onLink fun l => l.onDRow .nEsc ESC fun l => l.transNEsc

/-- D_N_DATA as an operation of its own (40_decoder R83). -/
def execDNData (b : Byte) (s : State) : Host.Outcome State Fault Refusal :=
  s.onLink fun l => l.onDRow .nData b fun l => l.transNData s.params b

/-- D_E_ESCEND as an operation of its own (40_decoder R84). -/
def execDEEscEnd (s : State) : Host.Outcome State Fault Refusal :=
  s.onLink fun l => l.onDRow .eEscEnd ESC_END fun l => l.transEEscEnd s.params

/-- D_E_ESCESC as an operation of its own (40_decoder R85). -/
def execDEEscEsc (s : State) : Host.Outcome State Fault Refusal :=
  s.onLink fun l => l.onDRow .eEscEsc ESC_ESC fun l => l.transEEscEsc s.params

/-- D_E_BAD as an operation of its own (40_decoder R86). -/
def execDEBad (b : Byte) (s : State) : Host.Outcome State Fault Refusal :=
  s.onLink fun l => l.onDRow .eBad b fun l => l.transEBad b

end Sys2Proof.Machine
end

