-- ==== Sys2Proof/Machine/Encoder.lean ====
section
/-! DEFINITION. The TX agent: the two passes and the frame, TX_DATAGRAM, and the meaning of each encoder row
(41_encoder). -/

namespace Sys2Proof.Machine

/-- Pass 1 replaces every 0xDB (41_encoder R111). -/
def pass1 : List Byte → List Byte
  | [] => []
  | b :: s => if b = ESC then [ESC, ESC_ESC] ++ pass1 s else [b] ++ pass1 s

/-- Pass 2 replaces every 0xC0 (41_encoder R112). -/
def pass2 : List Byte → List Byte
  | [] => []
  | b :: s => if b = END then [ESC, ESC_END] ++ pass2 s else [b] ++ pass2 s

/-- `Encode(d)` (41_encoder R110, R114). The two-pass form is the normative one (R113), and 0xDB goes first (R115). -/
def encodeFrame (d : List Byte) : List Byte := [END] ++ pass2 (pass1 d) ++ [END]

/-- What a substitution row outputs for byte `b` (41_encoder R113). -/
def subOfRow (row : ERow) (b : Byte) : List Byte :=
  match row with
  | .eEnd => [ESC, ESC_END]
  | .eEsc => [ESC, ESC_ESC]
  | .eLit => [b]

/-- `Sub(b)`: the row of byte `b` and its output (30_encoding R67, 41_encoder R113). -/
def sub (b : Byte) : List Byte := subOfRow (eRowOf b) b

/-- The one-pass equivalent of the two passes (41_encoder R113). -/
def onePass (d : List Byte) : List Byte := d.flatMap sub

/-- TX_DATAGRAM (41_encoder R110): refused past MAX_TX_LEN (R117), else exactly one `Tx` record. -/
def execTxDatagram (d : List Byte) (s : State) : Host.Outcome State Fault Refusal :=
  s.onLink fun l => if txTooLong s.params d then .error .txTooLong else .ok (l.txWrite (encodeFrame d))

/-- E_END as an operation of its own (41_encoder R113). -/
def execEEnd (s : State) : Host.Outcome State Fault Refusal :=
  s.onLink fun l => l.onERow .eEnd END (subOfRow .eEnd END)

/-- E_ESC as an operation of its own (41_encoder R113). -/
def execEEsc (s : State) : Host.Outcome State Fault Refusal :=
  s.onLink fun l => l.onERow .eEsc ESC (subOfRow .eEsc ESC)

/-- E_LIT as an operation of its own (41_encoder R113). -/
def execELit (b : Byte) (s : State) : Host.Outcome State Fault Refusal :=
  s.onLink fun l => l.onERow .eLit b (subOfRow .eLit b)

end Sys2Proof.Machine
end

