-- ==== Sys2Proof/Machine/Dispatch.lean ====
section
/-! DEFINITION. One arm per instruction. -/

namespace Sys2Proof.Machine

def exec (i : Instr) (s : State) : Host.Outcome State Fault Refusal :=
  match i with
  | .reset => Sys2Proof.Machine.execReset s
  | .rxByte b => Sys2Proof.Machine.execRxByte b s
  | .txDatagram d => Sys2Proof.Machine.execTxDatagram d s
  | .dNEnd => Sys2Proof.Machine.execDNEnd s
  | .dNEsc => Sys2Proof.Machine.execDNEsc s
  | .dNData b => Sys2Proof.Machine.execDNData b s
  | .dEEscEnd => Sys2Proof.Machine.execDEEscEnd s
  | .dEEscEsc => Sys2Proof.Machine.execDEEscEsc s
  | .dEBad b => Sys2Proof.Machine.execDEBad b s
  | .eEnd => Sys2Proof.Machine.execEEnd s
  | .eEsc => Sys2Proof.Machine.execEEsc s
  | .eLit b => Sys2Proof.Machine.execELit b s

end Sys2Proof.Machine
end

