-- ==== Sys2Proof/Machine/Fetch.lean ====
section
/-! DEFINITION. Taking the host's next request: one operation, two operations at once, or the wiring of an output
(70_reset R173 to R182, R188), and presenting a table word as the next operation. -/

namespace Sys2Proof.Machine

/-- The two agents of an instance that the host drives (20_memory section 6). -/
inductive Agent where
  | rx
  | tx
  deriving DecidableEq, Repr

/-- The agent an operation belongs to: RESET is the RX agent's (20_memory R52, decision D20). -/
def Agent.of : Instr → Agent
  | .reset => .rx
  | .rxByte _ => .rx
  | .txDatagram _ => .tx
  | .dNEnd => .rx
  | .dNEsc => .rx
  | .dNData _ => .rx
  | .dEEscEnd => .rx
  | .dEEscEsc => .rx
  | .dEBad _ => .rx
  | .eEnd => .tx
  | .eEsc => .tx
  | .eLit _ => .tx

/-- What the next request comes to. -/
inductive Fetched where
  /-- The host drives nothing: the block is idle and keeps its state (60_exceptions R159, 70_reset R187). -/
  | idle
  /-- One operation, on the selected instance of the state given. -/
  | run (i : Instr) (s : State)
  /-- A move of the host's that runs no operation. -/
  | moved (s : State)
  /-- A move the host does not have. -/
  | refuse (r : Refusal)
  deriving DecidableEq, Repr

/-- Takes one driven operation off the list `rest` stands behind. -/
def State.take (s : State) (d : Drive) (rest : List Request) : Fetched :=
  match decode d.word with
  | .ok i => .run i { s with host := rest, sel := d.link }
  | .error e => .refuse (.undecoded e)

/-- Two operations at the same time, of which both words decode: refused when they belong to one agent of one instance
(70_reset R180, R181); else there is no hazard (R182, 20_memory R54) and they are taken one after the other, in the order
offered. Log entry 12.

When a word does not decode, that word is refused (42_control R131), and the spec is silent on the operation offered with it.
Here the whole pair is refused at once, whichever stands first and on whatever instances, so the other operation has no step;
the refusal names the first word that does not decode. DESIGN CHOICE; safe. Log entry 18. -/
def State.takeBoth (s : State) (a b : Drive) (rest : List Request) : Fetched :=
  match decode a.word, decode b.word with
  | .ok i, .ok j =>
    if a.link = b.link ∧ Agent.of i = Agent.of j then
      match Agent.of i with
      | .rx => .refuse .concurrentRx
      | .tx => .refuse .concurrentTx
    else .moved { s with host := .drive a :: .drive b :: rest }
  | .error e, _ => .refuse (.undecoded e)
  | .ok _, .error e => .refuse (.undecoded e)

/-- Connects an output of an instance (70_reset R174). An output is wired once (42_control R132), and the spec is silent on
the same move made again: here it is a step that takes the request and changes nothing else. DESIGN CHOICE; safe. Log
entry 10. -/
def State.connect (s : State) (k : Nat) (port : OutPort) (rest : List Request) : Fetched :=
  match s.links[k]? with
  | none => .refuse .noSuchInstance
  | some l => .moved { s.setLink k { l with wiring := l.wiring.connect port } with host := rest }

/-- Takes the host's next request. -/
def State.fetch (s : State) : Fetched :=
  match s.host with
  | [] => .idle
  | .drive d :: rest => s.take d rest
  | .overlap a b :: rest => s.takeBoth a b rest
  | .wire k port :: rest => s.connect k port rest

/-- Puts the mode of the selected instance to the mode a decoder key carries in its bit 8 (30_encoding R66); an
operation of another format needs nothing. Log entry 11. -/
def State.withKeyMode (s : State) : Encoded → State
  | .cmd _ _ => s
  | .dkey k =>
    match s.links[s.sel]? with
    | none => s
    | some l => s.setLink s.sel { l with mode := keyMode k }
  | .ebyte _ => s
  | .stray _ _ => s

/-- Presents an operation at the selected instance, as the host's very next request. Log entry 5. -/
def State.present (s : State) (e : Encoded) : State :=
  { s.withKeyMode e with host := .drive { link := s.sel, word := e } :: s.host }

end Sys2Proof.Machine
end

