-- ==== Sys2Proof/Machine/Step.lean ====
section
/-! DEFINITION. One step: the host's next request is taken, and the operation it drives runs. -/

namespace Sys2Proof.Machine

/-- One step of the system. Each operation is one atomic step of its agent (00_scope R14, 20_memory R49). -/
def step (s : State) : Host.Outcome State Fault Refusal :=
  match s.fetch with
  | .idle => .next s
  | .run i t => exec i t
  | .moved t => .next t
  | .refuse r => .refused r

/-- `s` with a word of the opcode table presented as the host's very next operation on the selected instance. -/
def State.withFetchWord (s : State) (nbits w : Nat) : State := s.present (encodedOfTableWord nbits w)

end Sys2Proof.Machine
end

