-- ==== Sys2Proof/Machine/Asm.lean ====
section
/-! DEFINITION. The assembler notation of 30_encoding section 6: the operations and pseudo-operations, what they expand to,
and reading them from text (R73, R74; decisions D17, D18, D22). -/

namespace Sys2Proof.Machine

/-- A line of the notation (30_encoding R73, R74). -/
inductive Asm where
  | reset
  | rxb (b : Byte)
  | tx (d : List Byte)
  /-- The source's intake call of several bytes (40_decoder R91). -/
  | rx (bs : List Byte)
  /-- A frame that a peer encoder produced, fed to this decoder (decision D22). -/
  | rxf (d : List Byte)
  deriving DecidableEq, Repr

/-- The operations a line expands to (30_encoding R73, R74). -/
def Asm.expand : Asm → List Instr
  | .reset => [.reset]
  | .rxb b => [.rxByte b]
  | .tx d => [.txDatagram d]
  | .rx bs => bs.map .rxByte
  | .rxf d => (encodeFrame d).map .rxByte

/-- The host's requests that drive a list of operations on instance `k`, in order. -/
def driveAll (k : Nat) (is : List Instr) : List Request := is.map fun i => .drive { link := k, word := encode i }

/-- A program: its lines' operations in the order written, on instance `k`. -/
def assemble (k : Nat) (p : List Asm) : List Request := driveAll k (p.flatMap Asm.expand)

/-! ## Reading the text (30_encoding R73) -/

/-- Digits that follow one another in the character set: the first of them, how many they are, and the value of the first. -/
structure DigitRun where
  first : Char
  size : Nat
  value : Nat
  deriving DecidableEq, Repr

/-- The hexadecimal digits of 30_encoding R73; the spec does not say of which case, and both are read. Log entry 15. -/
def digitRuns : List DigitRun := [⟨'0', 10, 0⟩, ⟨'A', 6, 10⟩, ⟨'a', 6, 10⟩]

/-- The value of a character that stands `offset` places into the run. -/
def DigitRun.read (r : DigitRun) (c : Char) : Option Nat :=
  let offset := c.toNat - r.first.toNat
  if r.first ≤ c ∧ offset < r.size then some (r.value + offset) else none

/-- One hexadecimal digit. -/
def hexDigit (c : Char) : Option Nat := digitRuns.findSome? (·.read c)

/-- "Bytes are two hexadecimal digits with no `0x`" (30_encoding R73). -/
def hexByte : List Char → Option Byte
  | [c, d] => (hexDigit c).bind fun h => (hexDigit d).map fun l => BitVec.ofNat 8 (16 * h + l)
  | _ => none

/-- Two hexadecimal digits each. -/
def hexBytes (ws : List (List Char)) : Option (List Byte) := ws.mapM hexByte

/-- Cuts a line into words: spaces part them, a square bracket is a word of its own, and a `;` ends the line
(30_encoding R73). The word being read is kept reversed. -/
def lexLine (word : List Char) : List Char → List (List Char)
  | [] => flush word []
  | c :: cs =>
    if c = ';' then flush word []
    else if c = ' ' then flush word (lexLine [] cs)
    else if c = '[' ∨ c = ']' then flush word ([c] :: lexLine [] cs)
    else lexLine (c :: word) cs
where
  /-- Puts the word read so far before the rest. -/
  flush (word : List Char) (rest : List (List Char)) : List (List Char) :=
    if word.isEmpty then rest else word.reverse :: rest

/-- "A space-separated list of bytes in square brackets" (30_encoding R73). -/
def bracketed : List (List Char) → Option (List Byte)
  | ['['] :: ws => if ws.getLast? = some [']'] then hexBytes ws.dropLast else none
  | _ => none

/-- Reads the words of one line; a line with no words is no operation. -/
def parseWords : List (List Char) → Option (List Asm)
  | [] => some []
  | w :: ws =>
    if w = ['r', 'e', 's', 'e', 't'] then (if ws.isEmpty then some [.reset] else none)
    else if w = ['r', 'x', 'b'] then
      match ws with
      | [h] => (hexByte h).map fun b => [.rxb b]
      | _ => none
    else if w = ['t', 'x'] then (bracketed ws).map fun d => [.tx d]
    else if w = ['r', 'x'] then (hexBytes ws).map fun bs => [.rx bs]
    else if w = ['r', 'x', 'f'] then (bracketed ws).map fun d => [.rxf d]
    else none

/-- Cuts a text into lines. The line being read is kept reversed. -/
def splitLines (line : List Char) : List Char → List (List Char)
  | [] => [line.reverse]
  | c :: cs => if c = '\n' then line.reverse :: splitLines [] cs else splitLines (c :: line) cs

/-- Reads a program, one operation per line (30_encoding R73). -/
def parseProgram (text : List Char) : Option (List Asm) :=
  ((splitLines [] text).mapM fun l => parseWords (lexLine [] l)).map List.flatten

end Sys2Proof.Machine
end

