-- ==== Sys2Proof/Safety.lean ====
section
/-! DEFINITION. What a safe run is, in the terms claims use: the language of frames, legal records, the buffer within its
capacity, and the invariant every step keeps. -/

namespace Sys2Proof

/-- The payload language of 30_encoding R61: `unit*`, where a unit is a plain byte, ESC ESC_END or ESC ESC_ESC. -/
def payloadOk : List Byte → Bool
  | [] => true
  | [b] => b != END && b != ESC
  | b :: c :: s =>
    if b = ESC then (c == ESC_END || c == ESC_ESC) && payloadOk s
    else b != END && payloadOk (c :: s)

/-- The frame language of 30_encoding R61: `END payload END`. -/
def isFrame : List Byte → Bool
  | [] => false
  | b :: s => b == END && s.getLast? == some END && payloadOk s.dropLast

/-- A record the block may make: it never emits an empty datagram (10_state R28 (I3)), and what it writes is a frame
(41_encoder R119). -/
def Machine.Rec.legal : Machine.Rec → Bool
  | .emit d => !d.isEmpty
  | .tx f => isFrame f
  | .ev _ => true

/-- `len(buf) ≤ BUF_CAP` when it is bounded (10_state R22). -/
def Machine.Link.withinCap (p : Params) (l : Machine.Link) : Bool :=
  match p.bufCap with
  | none => true
  | some k => l.buf.length ≤ k

/-- An instance in order: the buffer within its capacity and only legal records. -/
def Machine.Link.inv (p : Params) (l : Machine.Link) : Bool := l.withinCap p && l.trace.all (·.legal)

/-- The system in order: legal parameters (00_scope R10), at least one instance, every instance in order. -/
def Machine.State.inv (s : Machine.State) : Bool :=
  s.params.wf && !s.links.isEmpty && s.links.all (·.inv s.params)

/-- Instance `l` is the one the operation at hand stands on, and its outputs are wired (60_exceptions R160, 70_reset R173):
the conditions under which an operation has a step. -/
abbrev Machine.State.ready (s : Machine.State) (l : Machine.Link) : Prop :=
  s.links[s.sel]? = some l ∧ l.wiring.ready = true

end Sys2Proof
end

