-- ==== Sys2Proof/Certificates/Slice0/Obligations.lean ====
section
/-! DEFINITION. The statements for the provers. -/

open Sys2Proof Sys2Proof.Machine

/-! ## Encodings (30_encoding) -/

/-- Encoding and decoding agree on every well-formed instruction, with every operand (30_encoding R64 to R67). -/
def Obligations.DecodeOfEncodeIsTheInstruction : Prop :=
  ∀ i : Instr, i.wf = true → decode (encode i) = .ok i

/-- The other direction: a presented operation that decodes is the one encoding of its instruction, bit for bit. For keys,
datagram bytes and TX_DATAGRAM this is 30_encoding R65 to R67. For RESET and RX_BYTE it rests on the model's choice of log
entry 13 (DESIGN CHOICE): bytes on the side operand of a command that takes none are refused as strayOperand. R65 read alone
decodes such a word whatever stands on tx_in, and the encoding would then drop those bytes. -/
def Obligations.EncodeOfDecodeIsTheWord : Prop :=
  ∀ (e : Encoded) (i : Instr), decode e = .ok i → encode i = e

/-- The command words of 95_test_vectors V-K1 to V-K7; the match values of the decoder's and encoder's six rows with a full
mask (30_encoding R66, R67); and for each of the three default rows (D_N_DATA, D_E_BAD, E_LIT), whose match values 0x000,
0x100 and 0x00 are not among them, one other word that it takes: 0x061, 0x1C0 and 0xDC. -/
def Obligations.WordsOfTheSpecDecode : Prop :=
  decode (.cmd 0x000#10 []) = .ok .reset ∧ decode (.cmd 0x1C0#10 []) = .ok (.rxByte 0xC0#8) ∧
  decode (.cmd 0x1DC#10 []) = .ok (.rxByte 0xDC#8) ∧ decode (.cmd 0x200#10 [0xC0#8]) = .ok (.txDatagram [0xC0#8]) ∧
  decode (.cmd 0x001#10 []) = .error (.reservedCommand 0x001#10) ∧
  decode (.cmd 0x201#10 []) = .error (.reservedCommand 0x201#10) ∧
  decode (.cmd 0x300#10 []) = .error (.reservedCommand 0x300#10) ∧
  decode (.cmd 0x3FF#10 []) = .error (.reservedCommand 0x3FF#10) ∧
  decode (.dkey 0x0C0#9) = .ok .dNEnd ∧ decode (.dkey 0x0DB#9) = .ok .dNEsc ∧
  decode (.dkey 0x061#9) = .ok (.dNData 0x61#8) ∧ decode (.dkey 0x1DC#9) = .ok .dEEscEnd ∧
  decode (.dkey 0x1DD#9) = .ok .dEEscEsc ∧ decode (.dkey 0x1C0#9) = .ok (.dEBad 0xC0#8) ∧
  decode (.ebyte 0xC0#8) = .ok .eEnd ∧ decode (.ebyte 0xDB#8) = .ok .eEsc ∧ decode (.ebyte 0xDC#8) = .ok (.eLit 0xDC#8)

/-- 30_encoding R65: the operation of each of the 1024 command words by `op = w[9:8]` and `data = w[7:0]`. -/
def Obligations.CommandWordsDecodeByTheirFields : Prop :=
  ∀ w : BitVec 10,
    (decode (.cmd w []) =
      if w.extractLsb' 8 2 = 0b00#2 ∧ w.extractLsb' 0 8 = 0x00#8 then .ok .reset
      else if w.extractLsb' 8 2 = 0b01#2 then .ok (.rxByte (w.extractLsb' 0 8))
      else if w.extractLsb' 8 2 = 0b10#2 ∧ w.extractLsb' 0 8 = 0x00#8 then .ok (.txDatagram [])
      else .error (.reservedCommand w)) ∧
    (w.extractLsb' 8 2 = 0b10#2 ∧ w.extractLsb' 0 8 = 0x00#8 → ∀ d, decode (.cmd w d) = .ok (.txDatagram d))

/-- The model's choice (log entry 13): bytes on the side operand of a command that takes none are refused by name. -/
def Obligations.StrayOperandIsRefused : Prop :=
  ∀ (w : BitVec 10) (d : List Byte) (i : Instr),
    decode (.cmd w []) = .ok i → i ≠ .txDatagram [] → d ≠ [] → decode (.cmd w d) = .error (.strayOperand w)

/-- 30_encoding R66: a key is `mode·256 + b`, every key is one, and it selects the row the table says. -/
def Obligations.DecoderKeySelectsItsRow : Prop :=
  (∀ b : Byte, (dKey .normal b).toNat = b.toNat ∧ (dKey .escaped b).toNat = 256 + b.toNat) ∧
  (∀ k : BitVec 9, ∃ m b, k = dKey m b) ∧
  (∀ b : Byte, decode (.dkey (dKey .normal b)) =
    .ok (if b = 0xC0#8 then .dNEnd else if b = 0xDB#8 then .dNEsc else .dNData b)) ∧
  (∀ b : Byte, decode (.dkey (dKey .escaped b)) =
    .ok (if b = 0xDC#8 then .dEEscEnd else if b = 0xDD#8 then .dEEscEsc else .dEBad b))

/-- 30_encoding R67: the encoder's row of each datagram byte, and its output. -/
def Obligations.DatagramByteSelectsItsSubstitution : Prop :=
  ∀ b : Byte,
    decode (.ebyte b) = .ok (if b = 0xC0#8 then .eEnd else if b = 0xDB#8 then .eEsc else .eLit b) ∧
    sub b = if b = 0xC0#8 then [0xDB#8, 0xDC#8] else if b = 0xDB#8 then [0xDB#8, 0xDD#8] else [b]

/-! ## The step and the host's moves -/

/-- A driven operation that decodes runs: the request is taken off the host's list and the instance it names selected;
the step adds nothing else (20_memory R49, 70_reset R188). -/
def Obligations.StepRunsTheDecodedInstruction : Prop :=
  ∀ (s : State) (d : Drive) (rest : List Request) (i : Instr),
    s.host = .drive d :: rest → decode d.word = .ok i → step s = exec i { s with host := rest, sel := d.link }

/-- A table word presented at the selected instance runs as the very next step; a decoder key brings its mode bit along
(log entry 11). -/
def Obligations.PresentedTableWordRuns : Prop :=
  ∀ (s : State) (nbits w : Nat) (i : Instr),
    decodeTableWord nbits w = some i →
      step (s.withFetchWord nbits w) = exec i (s.withKeyMode (encodedOfTableWord nbits w))

/-- 42_control R131: a reserved command word has no step, whatever stands on the side operand. -/
def Obligations.ReservedCommandIsRefused : Prop :=
  ∀ (s : State) (k : Nat) (w : BitVec 10) (d : List Byte) (rest : List Request),
    s.host = .drive { link := k, word := .cmd w d } :: rest →
    (w.extractLsb' 8 2 = 0b11#2 ∨
      (w.extractLsb' 0 8 ≠ 0x00#8 ∧ (w.extractLsb' 8 2 = 0b00#2 ∨ w.extractLsb' 8 2 = 0b10#2))) →
    step s = .refused (.undecoded (.reservedCommand w))

/-- With nothing driven the block is idle and keeps its state (60_exceptions R159, 70_reset R187). -/
def Obligations.IdleBlockKeepsItsState : Prop := ∀ s : State, s.host = [] → step s = .next s

/-- Two operations of one agent of one instance at the same time are refused (70_reset R180, R181). -/
def Obligations.ConcurrentOperationsOfOneAgentAreRefused : Prop :=
  ∀ (s : State) (a b : Drive) (rest : List Request) (i j : Instr),
    s.host = .overlap a b :: rest → decode a.word = .ok i → decode b.word = .ok j → a.link = b.link →
    Agent.of i = Agent.of j →
    step s = .refused (match Agent.of i with | .rx => .concurrentRx | .tx => .concurrentTx)

/-- Operations of two agents, or of two instances, may be offered at the same time (70_reset R182); the model takes them one
after the other in the order offered (log entry 12). -/
def Obligations.OverlapOfTwoAgentsIsTwoOperations : Prop :=
  ∀ (s : State) (a b : Drive) (rest : List Request) (i j : Instr),
    s.host = .overlap a b :: rest → decode a.word = .ok i → decode b.word = .ok j →
    (a.link ≠ b.link ∨ Agent.of i ≠ Agent.of j) →
    step s = .next { s with host := .drive a :: .drive b :: rest }

/-- Nothing runs on an instance whose outputs are not all wired (70_reset R174), or on an index that is no instance
(60_exceptions R160). -/
def Obligations.NoOperationWithoutAWiredInstance : Prop :=
  ∀ (i : Instr) (s : State),
    (∀ l, s.links[s.sel]? = some l → (l.wiring.rxOut && l.wiring.txOut && l.wiring.evOut) = false →
      exec i s = .refused .notWired) ∧
    (s.nLinks ≤ s.sel → exec i s = .refused .noSuchInstance)

/-- The boot order of 70_reset R174: an instance is built in the reset state, then its three outputs are wired, and after
that it is ready. -/
def Obligations.BootOrderMakesAnInstanceReady : Prop :=
  ∀ (p : Params) (n k : Nat) (rest : List Request), k < n →
    core.run 3 { State.built p n Wiring.unwired with
        host := .wire k .rxOut :: .wire k .txOut :: .wire k .evOut :: rest } =
      .next { State.built p n Wiring.unwired with
        links := (List.replicate n (Link.created Wiring.unwired)).set k (Link.created Wiring.all), host := rest }

/-! ## What each operation does -/

/-- 42_control R130: RESET gives the clean state, makes no record and leaves everything else; two RESETs leave the same
state as one. -/
def Obligations.ResetGivesTheCleanState : Prop :=
  decode (.cmd 0x000#10 []) = .ok .reset ∧
  ∀ (s : State) (l : Link), s.ready l →
    ∃ t, t = s.setLink s.sel { l with mode := .normal, buf := [] } ∧ exec .reset s = .next t ∧ exec .reset t = .next t

/-- 40_decoder R81: RX_BYTE END in NORMAL emits a non-empty buffer, clears the buffer in all cases and stays in NORMAL. The
premise on spontaneous faults is R88's: the draw is NONE (see SpontaneousFaultsFollowTheDraw for the others). -/
def Obligations.EndInNormalEmitsTheBuffer : Prop :=
  decode (.dkey 0x0C0#9) = .ok .dNEnd ∧
  ∀ (s : State) (l : Link), s.ready l → s.params.admitSpontaneousFault = false → l.mode = .normal →
    exec (.rxByte 0xC0#8) s = .next (s.setLink s.sel
      { l with buf := [], trace := if l.buf = [] then l.trace else l.trace ++ [.emit l.buf] })

/-- 40_decoder R82: RX_BYTE ESC in NORMAL makes the mode ESCAPED and changes nothing else, whether the buffer is empty or
full. -/
def Obligations.EscInNormalEscapes : Prop :=
  decode (.dkey 0x0DB#9) = .ok .dNEsc ∧
  ∀ (s : State) (l : Link), s.ready l → s.params.admitSpontaneousFault = false → l.mode = .normal →
    exec (.rxByte 0xDB#8) s = .next (s.setLink s.sel { l with mode := .escaped })

/-- 40_decoder R83: RX_BYTE of any other byte in NORMAL appends it, or overflows when the buffer is full. -/
def Obligations.DataInNormalIsAppended : Prop :=
  ∀ (s : State) (l : Link) (b : Byte), s.ready l → s.params.admitSpontaneousFault = false → l.mode = .normal →
    b ≠ 0xC0#8 → b ≠ 0xDB#8 →
    decode (.dkey (0#1 ++ b)) = .ok (.dNData b) ∧
    exec (.rxByte b) s = .next (s.setLink s.sel
      (if s.params.bufCap = some l.buf.length then
        { l with buf := [], trace := l.trace ++ [.ev (.internalFault .bufOverflow b l.buf.length)] }
      else { l with buf := l.buf ++ [b] }))

/-- 40_decoder R84: RX_BYTE ESC_END in ESCAPED appends a literal END, or overflows; the mode returns to NORMAL either way. -/
def Obligations.EscEndAppendsALiteralEnd : Prop :=
  decode (.dkey 0x1DC#9) = .ok .dEEscEnd ∧
  ∀ (s : State) (l : Link), s.ready l → s.params.admitSpontaneousFault = false → l.mode = .escaped →
    exec (.rxByte 0xDC#8) s = .next (s.setLink s.sel
      (if s.params.bufCap = some l.buf.length then
        { l with mode := .normal, buf := []
                 trace := l.trace ++ [.ev (.internalFault .bufOverflow 0xDC#8 l.buf.length)] }
      else { l with mode := .normal, buf := l.buf ++ [0xC0#8] }))

/-- 40_decoder R85: RX_BYTE ESC_ESC in ESCAPED appends a literal ESC, or overflows; the mode returns to NORMAL either way. -/
def Obligations.EscEscAppendsALiteralEsc : Prop :=
  decode (.dkey 0x1DD#9) = .ok .dEEscEsc ∧
  ∀ (s : State) (l : Link), s.ready l → s.params.admitSpontaneousFault = false → l.mode = .escaped →
    exec (.rxByte 0xDD#8) s = .next (s.setLink s.sel
      (if s.params.bufCap = some l.buf.length then
        { l with mode := .normal, buf := []
                 trace := l.trace ++ [.ev (.internalFault .bufOverflow 0xDD#8 l.buf.length)] }
      else { l with mode := .normal, buf := l.buf ++ [0xDB#8] }))

/-- 40_decoder R86: RX_BYTE of any other byte in ESCAPED is a MalformedFrame, always; the byte is consumed, the buffer
discarded, the mode NORMAL. -/
def Obligations.BadEscapeIsAMalformedFrame : Prop :=
  ∀ (s : State) (l : Link) (b : Byte), s.ready l → s.params.admitSpontaneousFault = false → l.mode = .escaped →
    b ≠ 0xDC#8 → b ≠ 0xDD#8 →
    decode (.dkey (1#1 ++ b)) = .ok (.dEBad b) ∧
    exec (.rxByte b) s = .next (s.setLink s.sel
      { l with mode := .normal, buf := [], trace := l.trace ++ [.ev (.malformedFrame b l.buf.length)] })

/-- The NORMAL rows as operations of their own do what 40_decoder R81 to R83 say, without a draw and whatever the parameters;
that a row can be run on its own is the model's choice (log entry 6). -/
def Obligations.NormalRowsRunTheirTransition : Prop :=
  ∀ (s : State) (l : Link), s.ready l → l.mode = .normal →
    exec .dNEnd s = .next (s.setLink s.sel
      { l with buf := [], trace := if l.buf = [] then l.trace else l.trace ++ [.emit l.buf] }) ∧
    exec .dNEsc s = .next (s.setLink s.sel { l with mode := .escaped }) ∧
    ∀ b, b ≠ 0xC0#8 → b ≠ 0xDB#8 → exec (.dNData b) s = .next (s.setLink s.sel
      (if s.params.bufCap = some l.buf.length then
        { l with buf := [], trace := l.trace ++ [.ev (.internalFault .bufOverflow b l.buf.length)] }
      else { l with buf := l.buf ++ [b] }))

/-- The ESCAPED rows as operations of their own do what 40_decoder R84 to R86 say, without a draw and whatever the parameters;
that a row can be run on its own is the model's choice (log entry 6). -/
def Obligations.EscapedRowsRunTheirTransition : Prop :=
  ∀ (s : State) (l : Link), s.ready l → l.mode = .escaped →
    let appended := fun (data rx : Byte) =>
      if s.params.bufCap = some l.buf.length then
        { l with mode := .normal, buf := []
                 trace := l.trace ++ [.ev (.internalFault .bufOverflow rx l.buf.length)] }
      else { l with mode := .normal, buf := l.buf ++ [data] }
    exec .dEEscEnd s = .next (s.setLink s.sel (appended 0xC0#8 0xDC#8)) ∧
    exec .dEEscEsc s = .next (s.setLink s.sel (appended 0xDB#8 0xDD#8)) ∧
    ∀ b, b ≠ 0xDC#8 → b ≠ 0xDD#8 → exec (.dEBad b) s = .next (s.setLink s.sel
      { l with mode := .normal, buf := [], trace := l.trace ++ [.ev (.malformedFrame b l.buf.length)] })

/-- 40_decoder R88 (and the rest of R80): RX_BYTE follows the draw. Not admitted, the draw is NONE. Admitted, it is free: NONE
runs the transition, BEFORE runs the recovery only, AFTER runs the transition and then the recovery unless the transition
raised an event. The counter of draws is the model's own (log entry 4). -/
def Obligations.SpontaneousFaultsFollowTheDraw : Prop :=
  ∀ (s : State) (l : Link) (b : Byte), s.ready l →
    let recovered := fun m : Link =>
      { m with mode := .normal, buf := [], trace := m.trace ++ [.ev (.internalFault .spontaneous b m.buf.length)] }
    let after := fun m : Link => m.transition s.params (dRowOf (dKey m.mode b)) b
    let drawn := { l with draws := l.draws + 1 }
    (s.params.admitSpontaneousFault = false → exec (.rxByte b) s = .next (s.setLink s.sel (after l).link)) ∧
    (s.params.admitSpontaneousFault = true → exec (.rxByte b) s = .next (s.setLink s.sel
      (match Config.faultDraw s.sel l.draws with
        | .none => (after drawn).link
        | .before => recovered drawn
        | .after => if (after drawn).raised then (after drawn).link else recovered (after drawn).link)))

/-- RX_BYTE runs the row its key selects (40_decoder R80): with no spontaneous faults admitted, the row on its own and the
command do the same. -/
def Obligations.SelectedRowRunsAsRxByte : Prop :=
  ∀ (s : State) (l : Link) (b : Byte), s.ready l → s.params.admitSpontaneousFault = false →
    ∃ t, exec (decodeKey (dKey l.mode b)) s = .next t ∧ exec (.rxByte b) s = .next t

/-- 41_encoder R110 and R117: TX_DATAGRAM writes exactly one record, the two-pass frame, and changes nothing else; past
MAX_TX_LEN it has no step. -/
def Obligations.TxDatagramWritesItsFrame : Prop :=
  (∀ d, decode (.cmd 0x200#10 d) = .ok (.txDatagram d)) ∧
  ∀ (s : State) (l : Link) (d : List Byte), s.ready l →
    let t := s.setLink s.sel
      { l with trace := l.trace ++ [.tx ([0xC0#8] ++ pass2 (pass1 d) ++ [0xC0#8])] }
    (s.params.maxTxLen = none → exec (.txDatagram d) s = .next t) ∧
    (∀ m, s.params.maxTxLen = some m →
      exec (.txDatagram d) s = if m < d.length then .refused .txTooLong else .next t)

/-- The encoder's rows as operations of their own output what 41_encoder R113 says; where the output stands is the model's
choice (log entry 7). -/
def Obligations.EncoderRowsOutputTheirSubstitution : Prop :=
  ∀ (s : State) (l : Link), s.ready l →
    exec .eEnd s = .next (s.setLink s.sel { l with subTrace := l.subTrace ++ [0xDB#8, 0xDC#8] }) ∧
    exec .eEsc s = .next (s.setLink s.sel { l with subTrace := l.subTrace ++ [0xDB#8, 0xDD#8] }) ∧
    ∀ b, b ≠ 0xC0#8 → b ≠ 0xDB#8 →
      exec (.eLit b) s = .next (s.setLink s.sel { l with subTrace := l.subTrace ++ [b] })

/-- On a ready instance an operation is refused only for a datagram past MAX_TX_LEN (41_encoder R117), or when it is a row
that no command is and that no byte selects in the mode the instance is in (log entry 6). In particular RX_BYTE and
RESET are never refused (40_decoder R90). -/
def Obligations.ReadyInstanceRefusesOnlyByName : Prop :=
  ∀ (i : Instr) (s : State) (l : Link), s.ready l →
    (exec i s = .refused .txTooLong ↔ ∃ d m, i = .txDatagram d ∧ s.params.maxTxLen = some m ∧ m < d.length) ∧
    (exec i s = .refused .rowNotSelected ↔
      (∀ w d, decode (.cmd w d) ≠ .ok i) ∧ (∀ b, decodeKey (dKey l.mode b) ≠ i) ∧ (∀ b, decodeEByte b ≠ i)) ∧
    (∀ r, exec i s = .refused r → r = .txTooLong ∨ r = .rowNotSelected)

/-- Nothing stops the block: no step ends in a fault, in any state (60_exceptions R147, 93 U10). -/
def Obligations.StepNeverFaults : Prop := ∀ (s : State) (r : Fault), step s ≠ .fault r

/-- 60_exceptions R141: the numbers of each event read back as the event, and a code that is never produced is a fault
(93 U10). -/
def Obligations.EventCodesReadBack : Prop :=
  (∀ b n, (Event.malformedFrame b n).code = 1 ∧ (Event.malformedFrame b n).subCode = none) ∧
  (∀ b n, (Event.internalFault .bufOverflow b n).code = 2 ∧ (Event.internalFault .bufOverflow b n).subCode = some 0) ∧
  (∀ b n, (Event.internalFault .spontaneous b n).code = 2 ∧ (Event.internalFault .spontaneous b n).subCode = some 1) ∧
  (∀ e : Event, Event.ofCodes e.code e.subCode e.byte e.discarded = .ok e) ∧
  (∀ c sc b n, c = 0 ∨ 3 ≤ c → Event.ofCodes c sc b n = .error (.unknownEventCode c))

/-! ## Frames: what operations leave alone -/

/-- 10_state R26: an operation changes the instance it runs on and no other; the parameters, the number of instances, the
host's list and the selection stay. -/
def Obligations.OperationTouchesOnlyItsInstance : Prop :=
  ∀ (i : Instr) (s t : State), exec i s = .next t →
    t.params = s.params ∧ t.nLinks = s.nLinks ∧ t.host = s.host ∧ t.sel = s.sel ∧
    ∀ k, k ≠ s.sel → t.links[k]? = s.links[k]?

/-- The frame of the RX agent's operations (RESET, RX_BYTE and the six decoder rows): the TX records, the substitution
outputs and the wiring stay, and so does the draw counter but for an RX_BYTE that draws. -/
def Obligations.RxOperationsLeaveTheTxAgent : Prop :=
  ∀ (i : Instr) (s t : State) (l : Link), s.ready l → Agent.of i = .rx → exec i s = .next t →
    ∃ l', t = s.setLink s.sel l' ∧ l'.txOut = l.txOut ∧ l'.subTrace = l.subTrace ∧ l'.wiring = l.wiring ∧
      ((∀ b, i ≠ .rxByte b) ∨ s.params.admitSpontaneousFault = false → l'.draws = l.draws)

/-- The frame of the TX agent's operations (TX_DATAGRAM and the three encoder rows): mode, buffer and every other thing of
the decoder stay (10_state R24). The trace gains one Tx record, of some frame, and the substitution outputs stay, or the trace
stays; which of the two an operation does, and the frame, is not said here but in TxDatagramWritesItsFrame and
EncoderRowsOutputTheirSubstitution. That an encoder row runs on its own and makes no record is the model's choice (log
entries 6 and 7). -/
def Obligations.TxOperationsLeaveTheDecoder : Prop :=
  ∀ (i : Instr) (s t : State) (l : Link), s.ready l → Agent.of i = .tx → exec i s = .next t →
    ∃ l', t = s.setLink s.sel l' ∧ l'.mode = l.mode ∧ l'.buf = l.buf ∧ l'.rxOut = l.rxOut ∧ l'.evOut = l.evOut ∧
      l'.wiring = l.wiring ∧ l'.draws = l.draws ∧
      ((∃ f, l'.trace = l.trace ++ [.tx f]) ∧ l'.subTrace = l.subTrace ∨ l'.trace = l.trace)

/-- 10_state R25: a step only appends to the output traces, at most two records to each. -/
def Obligations.StepOnlyAppendsToTraces : Prop :=
  ∀ (s t : State), step s = .next t → ∀ (k : Nat) (l : Link), s.links[k]? = some l →
    ∃ l' rs, t.links[k]? = some l' ∧ l'.trace = l.trace ++ rs ∧ rs.length ≤ 2

/-! ## Rules over all operations -/

/-- 10_state R28 (I2), 40_decoder R95: whatever RX operation runs in ESCAPED leaves NORMAL, and ESCAPED is entered only by ESC
in NORMAL. -/
def Obligations.EscapedLastsExactlyOneByte : Prop :=
  ∀ (i : Instr) (s t : State) (l : Link), s.ready l → Agent.of i = .rx → exec i s = .next t →
    ∃ l', t.links[s.sel]? = some l' ∧
      (l.mode = .escaped → l'.mode = .normal) ∧
      (l'.mode = .escaped → l.mode = .normal ∧ (i = .rxByte 0xDB#8 ∨ i = .dNEsc) ∧ l'.buf = l.buf)

/-- 40_decoder R89: a datagram is emitted exactly at an END in NORMAL that finds the buffer non-empty, and it is the buffer. A
draw BEFORE stops the transition, so that D_N_END does not run (R88). The row D_N_END on its own is the model's choice (log
entry 6). -/
def Obligations.EmissionIsExactlyAtEnd : Prop :=
  ∀ (i : Instr) (s t : State) (l : Link), s.ready l → exec i s = .next t →
    ∃ l', t.links[s.sel]? = some l' ∧
      l'.rxOut = l.rxOut ++
        (if (i = .dNEnd ∨ i = .rxByte 0xC0#8 ∧
              ¬(s.params.admitSpontaneousFault = true ∧ Config.faultDraw s.sel l.draws = .before)) ∧
            l.mode = .normal ∧ l.buf ≠ [] then [l.buf] else [])

/-- 60_exceptions R150 and 10_state R28 (I1), with spontaneous faults admitted or not: one operation records at most one event,
at most one datagram and the datagram first, and after a datagram or an event the buffer is empty and the mode NORMAL. -/
def Obligations.AtMostOneEventAndThenClean : Prop :=
  ∀ (i : Instr) (s t : State) (l : Link), s.ready l → Agent.of i = .rx → exec i s = .next t →
    ∃ l', t.links[s.sel]? = some l' ∧
      (l'.trace = l.trace ∨
        (l'.mode = .normal ∧ l'.buf = [] ∧
          ((∃ e, l'.trace = l.trace ++ [.ev e]) ∨ l'.trace = l.trace ++ [.emit l.buf] ∨
            ∃ b, l'.trace = l.trace ++ [.emit l.buf, .ev (.internalFault .spontaneous b 0)])))

/-- 60_exceptions R145 (the row D_E_BAD on its own is the model's choice, log entry 6): MalformedFrame comes only from a byte other than ESC_END and ESC_ESC in ESCAPED, and it carries that
byte and the length of the buffer it discards (R143). -/
def Obligations.MalformedFrameOnlyFromABadEscape : Prop :=
  ∀ (i : Instr) (s t : State) (l l' : Link) (b : Byte) (n : Nat), s.ready l → exec i s = .next t →
    t.links[s.sel]? = some l' → l'.evOut = l.evOut ++ [.malformedFrame b n] →
    l.mode = .escaped ∧ b ≠ 0xDC#8 ∧ b ≠ 0xDD#8 ∧ (i = .rxByte b ∨ i = .dEBad b) ∧ n = l.buf.length ∧
      l'.rxOut = l.rxOut

/-! ## The encoder (41_encoder) -/

/-- 41_encoder R111 and R112: pass 1 replaces every 0xDB and pass 2 every 0xC0, and pass 1 neither drops nor introduces a
0xC0. -/
def Obligations.PassesReplaceExactlyTheirByte : Prop :=
  pass1 [] = [] ∧ (∀ b s, pass1 (b :: s) = (if b = 0xDB#8 then [0xDB#8, 0xDD#8] else [b]) ++ pass1 s) ∧
  pass2 [] = [] ∧ (∀ b s, pass2 (b :: s) = (if b = 0xC0#8 then [0xDB#8, 0xDC#8] else [b]) ++ pass2 s) ∧
  (∀ d, (pass1 d).count 0xC0#8 = d.count 0xC0#8) ∧ ∀ d, 0xC0#8 ∉ pass2 d

/-- 41_encoder R113: the two passes equal the one-pass substitution on every input. -/
def Obligations.TwoPassesEqualOnePass : Prop :=
  ∀ d : List Byte, pass2 (pass1 d) =
    d.flatMap fun b => if b = 0xC0#8 then [0xDB#8, 0xDC#8] else if b = 0xDB#8 then [0xDB#8, 0xDD#8] else [b]

/-- 41_encoder R119: the shape of every frame. -/
def Obligations.EveryFrameHasTheShape : Prop :=
  ∀ d : List Byte,
    (encodeFrame d).length = d.length + 2 + d.countP (fun b => b == 0xC0#8 || b == 0xDB#8) ∧
    (encodeFrame d)[0]? = some 0xC0#8 ∧ (encodeFrame d)[(encodeFrame d).length - 1]? = some 0xC0#8 ∧
    (∀ n, 0 < n → n < (encodeFrame d).length - 1 → (encodeFrame d)[n]? ≠ some 0xC0#8) ∧
    (∀ n : Nat, (encodeFrame d)[n]? = some 0xDB#8 →
      (encodeFrame d)[n + 1]? = some 0xDC#8 ∨ (encodeFrame d)[n + 1]? = some 0xDD#8) ∧
    isFrame (encodeFrame d) = true

/-- 30_encoding R61: the encoder produces exactly the language of frames, and each frame is the image of exactly one
datagram. -/
def Obligations.EncoderProducesExactlyTheFrames : Prop :=
  (∀ d, isFrame (encodeFrame d) = true) ∧ ∀ f, isFrame f = true → ∃! d, encodeFrame d = f

/-- 41_encoder R115: the order of the passes is load-bearing. -/
def Obligations.PassOrderIsLoadBearing : Prop :=
  pass2 (pass1 [0xC0#8]) = [0xDB#8, 0xDC#8] ∧ pass2 [0xC0#8] = [0xDB#8, 0xDC#8] ∧
  pass1 (pass2 [0xC0#8]) = [0xDB#8, 0xDD#8, 0xDC#8] ∧
  ∀ (k : Nat) (w : Wiring),
    ((Link.created w).decodeStream Params.source k ([0xC0#8] ++ pass1 (pass2 [0xC0#8]) ++ [0xC0#8])).trace =
      [.emit [0xDB#8, 0xDC#8]]

/-- 41_encoder R121: the frames of the empty datagram and of the two bytes that are escaped; TX_DATAGRAM of the empty
datagram records its frame, and a clean decoder emits nothing for it. -/
def Obligations.SmallFramesAreAsTheSpecSays : Prop :=
  encodeFrame [] = [0xC0#8, 0xC0#8] ∧ encodeFrame [0xC0#8] = [0xC0#8, 0xDB#8, 0xDC#8, 0xC0#8] ∧
  encodeFrame [0xDB#8] = [0xC0#8, 0xDB#8, 0xDD#8, 0xC0#8] ∧
  (∀ (s : State) (l : Link), s.ready l →
    exec (.txDatagram []) s = .next (s.setLink s.sel { l with trace := l.trace ++ [.tx [0xC0#8, 0xC0#8]] })) ∧
  ∀ (p : Params) (k : Nat) (l : Link), p.admitSpontaneousFault = false → l.mode = .normal → l.buf = [] →
    (l.decodeStream p k [0xC0#8, 0xC0#8]).rxOut = l.rxOut

/-- Two datagrams sent one after the other stand on tx_out as two whole frames in order (20_memory R47). -/
def Obligations.FramesStandWholeAndInOrder : Prop :=
  ∀ (s : State) (l : Link) (d e : List Byte), s.ready l → s.params.maxTxLen = none →
    ∃ t u l', exec (.txDatagram d) s = .next t ∧ exec (.txDatagram e) t = .next u ∧ u.links[s.sel]? = some l' ∧
      l'.txOut = l.txOut ++ [encodeFrame d, encodeFrame e]

/-! ## Streams of bytes (40_decoder R91 to R96) -/

/-- 40_decoder R91, R96: driving bytes one after the other on an instance of the system gives `Decode` of the stream on that
instance, leaves the rest of the system and completes. -/
def Obligations.DrivenBytesDecodeAsAStream : Prop :=
  ∀ (s : State) (k : Nat) (l : Link) (bs : List Byte) (rest : List Request),
    s.links[k]? = some l → l.wiring.ready = true → s.host = driveAll k (bs.map .rxByte) ++ rest →
    core.run bs.length s = .next
      { s with links := s.links.set k (l.decodeStream s.params k bs), host := rest,
               sel := if bs = [] then s.sel else k }

/-- 40_decoder R92: splitting a stream into intake calls changes neither the host's operations nor the result. -/
def Obligations.SplittingAStreamChangesNothing : Prop :=
  ∀ (p : Params) (k : Nat) (l : Link) (a b : List Byte),
    assemble k [.rx (a ++ b)] = assemble k [.rx a, .rx b] ∧
    l.decodeStream p k (a ++ b) = (l.decodeStream p k a).decodeStream p k b

/-- 41_encoder R120: the frame of any datagram that fits the buffer, decoded from any state of the decoder: what the leading
END does to that state, then the datagram exactly once (and nothing for the empty one), then the clean state. -/
def Obligations.FrameDecodesFromAnyState : Prop :=
  ∀ (p : Params) (k : Nat) (l : Link) (d : List Byte),
    p.admitSpontaneousFault = false → (∀ c, p.bufCap = some c → d.length ≤ c) →
    l.decodeStream p k (encodeFrame d) =
      { l with
        mode := .normal
        buf := []
        trace := l.trace ++
          (match l.mode with
            | .normal => if l.buf = [] then [] else [.emit l.buf]
            | .escaped => [.ev (.malformedFrame 0xC0#8 l.buf.length)]) ++
          (if d = [] then [] else [.emit d]) }

/-- 60_exceptions R149: after any event the instance is in the state RESET gives, and the next well-formed frame decodes with
no residue. -/
def Obligations.NextFrameDecodesAfterAnEvent : Prop :=
  ∀ (p : Params) (k : Nat) (l : Link) (b : Byte) (d : List Byte),
    p.admitSpontaneousFault = false → (∀ c, p.bufCap = some c → d.length ≤ c) →
    (l.rxByte p k b).evOut ≠ l.evOut →
    (l.rxByte p k b).mode = .normal ∧ (l.rxByte p k b).buf = [] ∧
    ((l.rxByte p k b).decodeStream p k (encodeFrame d)).rxOut = l.rxOut ++ (if d = [] then [] else [d]) ∧
    ((l.rxByte p k b).decodeStream p k (encodeFrame d)).evOut = (l.rxByte p k b).evOut

/-- 10_state R38: every mode and every buffer within the capacity is reached from the clean state, with no record made. -/
def Obligations.EveryDecoderStateIsReachable : Prop :=
  ∀ (p : Params) (k : Nat) (l : Link) (m : Mode) (bytes : List Byte),
    p.admitSpontaneousFault = false → (∀ c, p.bufCap = some c → bytes.length ≤ c) → l.mode = .normal → l.buf = [] →
    ∃ bs, l.decodeStream p k bs = { l with mode := m, buf := bytes }

/-- 70_reset R185: with BUF_CAP = some c the byte after the c-th payload byte overflows, and the payload bytes after it are
collected afresh and emitted at the trailing END. That the event carries the wire byte which completed the payload byte (DC
for C0, DD for DB) is from 40_decoder R84 and R85 and 60_exceptions R141; 20_memory R40 writes the appended byte, and the
model's reading is log entry 8 (DEDUCED). -/
def Obligations.PayloadPastTheCapacityOverflows : Prop :=
  ∀ (p : Params) (k c : Nat) (l : Link) (d e : List Byte) (x : Byte),
    p.admitSpontaneousFault = false → p.bufCap = some c → d.length = c → e.length ≤ c → l.mode = .normal → l.buf = [] →
    l.decodeStream p k (encodeFrame (d ++ [x] ++ e)) =
      { l with trace := l.trace ++
          [.ev (.internalFault .bufOverflow
            (if x = 0xC0#8 then 0xDC#8 else if x = 0xDB#8 then 0xDD#8 else x) c)] ++
          (if e = [] then [] else [.emit e]) }

/-- 30_encoding R74: what the pseudo-operations expand to. -/
def Obligations.PseudoOperationsExpand : Prop :=
  (∀ bs, (Asm.rx bs).expand = bs.flatMap fun b => (Asm.rxb b).expand) ∧ (Asm.rx []).expand = [] ∧
  ∀ d, (Asm.rxf d).expand = (Asm.rx (encodeFrame d)).expand

/-! ## Independence -/

/-- 20_memory R53: an RX and a TX operation of one instance commute: in either order the same RX records, the same TX records
and the same state of the decoder. -/
def Obligations.RxAndTxOperationsCommute : Prop :=
  ∀ (i j : Instr) (s a c : State), Agent.of i = .rx → Agent.of j = .tx → exec i s = .next a → exec j s = .next c →
    ∃ b d l m, exec j a = .next b ∧ exec i c = .next d ∧ b.links[s.sel]? = some l ∧ d.links[s.sel]? = some m ∧
      l.rxRecords = m.rxRecords ∧ l.txOut = m.txOut ∧ l.mode = m.mode ∧ l.buf = m.buf ∧ l.draws = m.draws ∧
      l.subTrace = m.subTrace ∧ l.wiring = m.wiring

/-- 20_memory R54, 60_exceptions R161: operations of two instances commute: every interleaving ends in the same instances. -/
def Obligations.OperationsOfTwoInstancesCommute : Prop :=
  ∀ (i j : Instr) (x y : Nat) (s a c : State), x ≠ y →
    exec i { s with sel := x } = .next a → exec j { s with sel := y } = .next c →
    ∃ b d, exec j { a with sel := y } = .next b ∧ exec i { c with sel := x } = .next d ∧ b.links = d.links

/-- 10_state R26: what an operation does to its instance depends on that instance and the parameters only: two systems that
differ in every other instance and in what the host drives next cannot be told apart by it. -/
def Obligations.OtherInstancesCannotBeSeen : Prop :=
  ∀ (i : Instr) (s u t : State), s.params = u.params → s.sel = u.sel → s.links[s.sel]? = u.links[u.sel]? →
    exec i s = .next t →
    ∃ v, exec i u = .next v ∧ v.links[u.sel]? = t.links[s.sel]?

/-! ## Reset and the invariant -/

/-- 10_state R29: every instance is created with mode NORMAL and an empty buffer, for every parameter value, every number of
instances and whether or not its outputs are wired yet; so is the instance of State.reset; and RESET gives the same. -/
def Obligations.ResetStateIsClean : Prop :=
  (∀ (p : Params) (n : Nat) (w : Wiring), (State.built p n w).nLinks = n ∧
    ∀ l ∈ (State.built p n w).links, l.mode = .normal ∧ l.buf = []) ∧
  (∀ l ∈ State.reset.links, l.mode = .normal ∧ l.buf = []) ∧
  ∀ (s t : State), exec .reset s = .next t → ∃ l, t.links[s.sel]? = some l ∧ l.mode = .normal ∧ l.buf = []

/-- The invariant holds of every system just built with legal parameters and at least one instance, and at State.reset. -/
def Obligations.InvariantHoldsWhenBuilt : Prop :=
  (∀ (p : Params) (n : Nat) (w : Wiring), p.wf = true → 1 ≤ n → (State.built p n w).inv = true) ∧ State.reset.inv = true

/-- Every step keeps the invariant: the parameters stay legal, the buffers within BUF_CAP (10_state R22), no empty datagram is
ever emitted (R28 (I3)), and everything on tx_out is a frame (41_encoder R119). -/
def Obligations.StepKeepsTheInvariant : Prop := ∀ s t : State, s.inv = true → step s = .next t → t.inv = true
end

