-- ==== Sys2Proof/Laws/Decode.lean ====
section
/-! SUPPORT. What the encoding tables select, said once. -/

namespace Sys2Proof

/-! The four special bytes are distinct (30_encoding R60). -/

@[simp] theorem end_ne_esc : END ≠ ESC := by decide
@[simp] theorem end_ne_escEnd : END ≠ ESC_END := by decide
@[simp] theorem end_ne_escEsc : END ≠ ESC_ESC := by decide
@[simp] theorem esc_ne_end : ESC ≠ END := by decide
@[simp] theorem esc_ne_escEnd : ESC ≠ ESC_END := by decide
@[simp] theorem esc_ne_escEsc : ESC ≠ ESC_ESC := by decide
@[simp] theorem escEnd_ne_end : ESC_END ≠ END := by decide
@[simp] theorem escEnd_ne_esc : ESC_END ≠ ESC := by decide
@[simp] theorem escEnd_ne_escEsc : ESC_END ≠ ESC_ESC := by decide
@[simp] theorem escEsc_ne_end : ESC_ESC ≠ END := by decide
@[simp] theorem escEsc_ne_esc : ESC_ESC ≠ ESC := by decide
@[simp] theorem escEsc_ne_escEnd : ESC_ESC ≠ ESC_END := by decide

set_option maxRecDepth 100000 in
/-- The NORMAL half of 30_encoding R66. -/
theorem dRowOf_normal (b : Byte) :
    dRowOf (dKey .normal b) = if b = END then .nEnd else if b = ESC then .nEsc else .nData := by
  revert b; decide

set_option maxRecDepth 100000 in
/-- The ESCAPED half of 30_encoding R66. -/
theorem dRowOf_escaped (b : Byte) :
    dRowOf (dKey .escaped b) = if b = ESC_END then .eEscEnd else if b = ESC_ESC then .eEscEsc else .eBad := by
  revert b; decide

set_option maxRecDepth 100000 in
/-- 30_encoding R67. -/
theorem eRowOf_eq (b : Byte) : eRowOf b = if b = END then .eEnd else if b = ESC then .eEsc else .eLit := by
  revert b; decide

set_option maxRecDepth 100000 in
/-- Each of the 512 keys matches a row of the decoder's table (30_encoding R66). -/
theorem firstHit_dTable_isSome (k : BitVec 9) : (firstHit dTable k).isSome = true := by
  revert k; decide

set_option maxRecDepth 100000 in
/-- Each byte matches a row of the encoder's table (30_encoding R67). -/
theorem firstHit_eTable_isSome (b : Byte) : (firstHit eTable b).isSome = true := by
  revert b; decide

set_option maxRecDepth 100000 in
/-- Which command word matches which row (30_encoding R65). -/
theorem firstHit_cmdTable (w : BitVec 10) :
    firstHit cmdTable w =
      if w = 0x000#10 then some .reset
      else if w.extractLsb' 8 2 = 0b01#2 then some .rxByte
      else if w = 0x200#10 then some .txDatagram
      else none := by
  revert w; decide

set_option maxRecDepth 100000 in
/-- The key's two fields are read back. -/
theorem keyByte_dKey (m : Mode) (b : Byte) : keyByte (dKey m b) = b := by
  revert b; cases m <;> decide

set_option maxRecDepth 100000 in
/-- The key's two fields are read back. -/
theorem keyMode_dKey (m : Mode) (b : Byte) : keyMode (dKey m b) = m := by
  revert b; cases m <;> decide

set_option maxRecDepth 100000 in
/-- A key is made of its two fields. -/
theorem dKey_fields (k : BitVec 9) : dKey (keyMode k) (keyByte k) = k := by
  revert k; decide

set_option maxRecDepth 100000 in
/-- The key's number is `mode·256 + b` (30_encoding R66). -/
theorem dKey_toNat (m : Mode) (b : Byte) :
    (dKey m b).toNat = (match m with | .normal => 0 | .escaped => 1) * 256 + b.toNat := by
  revert b; cases m <;> decide

set_option maxRecDepth 100000 in
/-- The data field of an RX_BYTE word is its byte. -/
theorem cmdData_rxWord (b : Byte) : cmdData (0b01#2 ++ b) = b := by
  revert b; decide

set_option maxRecDepth 100000 in
/-- An RX_BYTE word selects the RX_BYTE row. -/
theorem firstHit_rxWord (b : Byte) : firstHit cmdTable (0b01#2 ++ b) = some .rxByte := by
  revert b; decide

/-- A key decodes by its row. -/
theorem decodeKey_normal (b : Byte) :
    decodeKey (dKey .normal b) = if b = END then .dNEnd else if b = ESC then .dNEsc else .dNData b := by
  unfold decodeKey
  rw [dRowOf_normal, keyByte_dKey]
  by_cases h₁ : b = END
  · simp [h₁]
  · by_cases h₂ : b = ESC
    · subst h₂; rfl
    · simp [h₁, h₂]

/-- A key decodes by its row. -/
theorem decodeKey_escaped (b : Byte) :
    decodeKey (dKey .escaped b) = if b = ESC_END then .dEEscEnd else if b = ESC_ESC then .dEEscEsc else .dEBad b := by
  unfold decodeKey
  rw [dRowOf_escaped, keyByte_dKey]
  by_cases h₁ : b = ESC_END
  · simp [h₁]
  · by_cases h₂ : b = ESC_ESC
    · subst h₂; rfl
    · simp [h₁, h₂]

/-- A datagram byte decodes by its row. -/
theorem decodeEByte_eq (b : Byte) :
    decodeEByte b = if b = END then .eEnd else if b = ESC then .eEsc else .eLit b := by
  unfold decodeEByte
  rw [eRowOf_eq]
  by_cases h₁ : b = END
  · simp [h₁]
  · by_cases h₂ : b = ESC
    · subst h₂; rfl
    · simp [h₁, h₂]

end Sys2Proof
end

