-- ==== Sys2Proof/Laws/State.lean ====
section
/-! SUPPORT. What each update of an instance or of the system does to each field. -/

namespace Sys2Proof.Machine

@[simp] theorem Link.record_mode (l : Link) (r : Rec) : (l.record r).mode = l.mode := rfl
@[simp] theorem Link.record_buf (l : Link) (r : Rec) : (l.record r).buf = l.buf := rfl
@[simp] theorem Link.record_trace (l : Link) (r : Rec) : (l.record r).trace = l.trace ++ [r] := rfl
@[simp] theorem Link.record_wiring (l : Link) (r : Rec) : (l.record r).wiring = l.wiring := rfl
@[simp] theorem Link.record_draws (l : Link) (r : Rec) : (l.record r).draws = l.draws := rfl
@[simp] theorem Link.record_subTrace (l : Link) (r : Rec) : (l.record r).subTrace = l.subTrace := rfl

@[simp] theorem Link.emit_mode (l : Link) (d : List Byte) : (l.emit d).mode = l.mode := rfl
@[simp] theorem Link.emit_buf (l : Link) (d : List Byte) : (l.emit d).buf = l.buf := rfl
@[simp] theorem Link.emit_trace (l : Link) (d : List Byte) : (l.emit d).trace = l.trace ++ [.emit d] := rfl
@[simp] theorem Link.emit_wiring (l : Link) (d : List Byte) : (l.emit d).wiring = l.wiring := rfl
@[simp] theorem Link.emit_draws (l : Link) (d : List Byte) : (l.emit d).draws = l.draws := rfl
@[simp] theorem Link.emit_subTrace (l : Link) (d : List Byte) : (l.emit d).subTrace = l.subTrace := rfl

@[simp] theorem Link.txWrite_mode (l : Link) (f : List Byte) : (l.txWrite f).mode = l.mode := rfl
@[simp] theorem Link.txWrite_buf (l : Link) (f : List Byte) : (l.txWrite f).buf = l.buf := rfl
@[simp] theorem Link.txWrite_trace (l : Link) (f : List Byte) : (l.txWrite f).trace = l.trace ++ [.tx f] := rfl
@[simp] theorem Link.txWrite_wiring (l : Link) (f : List Byte) : (l.txWrite f).wiring = l.wiring := rfl
@[simp] theorem Link.txWrite_draws (l : Link) (f : List Byte) : (l.txWrite f).draws = l.draws := rfl
@[simp] theorem Link.txWrite_subTrace (l : Link) (f : List Byte) : (l.txWrite f).subTrace = l.subTrace := rfl

@[simp] theorem Link.report_mode (l : Link) (e : Event) : (l.report e).mode = l.mode := rfl
@[simp] theorem Link.report_buf (l : Link) (e : Event) : (l.report e).buf = l.buf := rfl
@[simp] theorem Link.report_trace (l : Link) (e : Event) : (l.report e).trace = l.trace ++ [.ev e] := rfl
@[simp] theorem Link.report_wiring (l : Link) (e : Event) : (l.report e).wiring = l.wiring := rfl
@[simp] theorem Link.report_draws (l : Link) (e : Event) : (l.report e).draws = l.draws := rfl
@[simp] theorem Link.report_subTrace (l : Link) (e : Event) : (l.report e).subTrace = l.subTrace := rfl

@[simp] theorem Link.bufClear_mode (l : Link) : (l.bufClear).mode = l.mode := rfl
@[simp] theorem Link.bufClear_buf (l : Link) : (l.bufClear).buf = [] := rfl
@[simp] theorem Link.bufClear_trace (l : Link) : (l.bufClear).trace = l.trace := rfl
@[simp] theorem Link.bufClear_wiring (l : Link) : (l.bufClear).wiring = l.wiring := rfl
@[simp] theorem Link.bufClear_draws (l : Link) : (l.bufClear).draws = l.draws := rfl
@[simp] theorem Link.bufClear_subTrace (l : Link) : (l.bufClear).subTrace = l.subTrace := rfl

@[simp] theorem Link.clean_mode (l : Link) : (l.clean).mode = .normal := rfl
@[simp] theorem Link.clean_buf (l : Link) : (l.clean).buf = [] := rfl
@[simp] theorem Link.clean_trace (l : Link) : (l.clean).trace = l.trace := rfl
@[simp] theorem Link.clean_wiring (l : Link) : (l.clean).wiring = l.wiring := rfl
@[simp] theorem Link.clean_draws (l : Link) : (l.clean).draws = l.draws := rfl
@[simp] theorem Link.clean_subTrace (l : Link) : (l.clean).subTrace = l.subTrace := rfl

@[simp] theorem Link.setMode_mode (l : Link) (m : Mode) : (l.setMode m).mode = m := rfl
@[simp] theorem Link.setMode_buf (l : Link) (m : Mode) : (l.setMode m).buf = l.buf := rfl
@[simp] theorem Link.setMode_trace (l : Link) (m : Mode) : (l.setMode m).trace = l.trace := rfl
@[simp] theorem Link.setMode_wiring (l : Link) (m : Mode) : (l.setMode m).wiring = l.wiring := rfl
@[simp] theorem Link.setMode_draws (l : Link) (m : Mode) : (l.setMode m).draws = l.draws := rfl
@[simp] theorem Link.setMode_subTrace (l : Link) (m : Mode) : (l.setMode m).subTrace = l.subTrace := rfl

@[simp] theorem Link.raiseMalformed_mode (l : Link) (b : Byte) : (l.raiseMalformed b).mode = .normal := rfl
@[simp] theorem Link.raiseMalformed_buf (l : Link) (b : Byte) : (l.raiseMalformed b).buf = [] := rfl
@[simp] theorem Link.raiseMalformed_trace (l : Link) (b : Byte) : (l.raiseMalformed b).trace = l.trace ++ [.ev (.malformedFrame b l.buf.length)] := rfl
@[simp] theorem Link.raiseMalformed_wiring (l : Link) (b : Byte) : (l.raiseMalformed b).wiring = l.wiring := rfl
@[simp] theorem Link.raiseMalformed_draws (l : Link) (b : Byte) : (l.raiseMalformed b).draws = l.draws := rfl
@[simp] theorem Link.raiseMalformed_subTrace (l : Link) (b : Byte) : (l.raiseMalformed b).subTrace = l.subTrace := rfl

@[simp] theorem Link.raiseInternal_mode (l : Link) (c : Cause) (b : Byte) : (l.raiseInternal c b).mode = .normal := rfl
@[simp] theorem Link.raiseInternal_buf (l : Link) (c : Cause) (b : Byte) : (l.raiseInternal c b).buf = [] := rfl
@[simp] theorem Link.raiseInternal_trace (l : Link) (c : Cause) (b : Byte) : (l.raiseInternal c b).trace = l.trace ++ [.ev (.internalFault c b l.buf.length)] := rfl
@[simp] theorem Link.raiseInternal_wiring (l : Link) (c : Cause) (b : Byte) : (l.raiseInternal c b).wiring = l.wiring := rfl
@[simp] theorem Link.raiseInternal_draws (l : Link) (c : Cause) (b : Byte) : (l.raiseInternal c b).draws = l.draws := rfl
@[simp] theorem Link.raiseInternal_subTrace (l : Link) (c : Cause) (b : Byte) : (l.raiseInternal c b).subTrace = l.subTrace := rfl

theorem Link.bufRead_eq (l : Link) : l.bufRead = l.buf := rfl

/-! `countDraw` writes the draw counter and nothing else. -/

@[simp] theorem Link.countDraw_mode (p : Params) (l : Link) : (l.countDraw p).mode = l.mode := by
  unfold Link.countDraw; split <;> rfl
@[simp] theorem Link.countDraw_buf (p : Params) (l : Link) : (l.countDraw p).buf = l.buf := by
  unfold Link.countDraw; split <;> rfl
@[simp] theorem Link.countDraw_trace (p : Params) (l : Link) : (l.countDraw p).trace = l.trace := by
  unfold Link.countDraw; split <;> rfl
@[simp] theorem Link.countDraw_wiring (p : Params) (l : Link) : (l.countDraw p).wiring = l.wiring := by
  unfold Link.countDraw; split <;> rfl
@[simp] theorem Link.countDraw_subTrace (p : Params) (l : Link) : (l.countDraw p).subTrace = l.subTrace := by
  unfold Link.countDraw; split <;> rfl

/-! ## The system -/

@[simp] theorem State.setLink_params (s : State) (k : Nat) (l : Link) : (s.setLink k l).params = s.params := rfl
@[simp] theorem State.setLink_links (s : State) (k : Nat) (l : Link) : (s.setLink k l).links = s.links.set k l := rfl
@[simp] theorem State.setLink_host (s : State) (k : Nat) (l : Link) : (s.setLink k l).host = s.host := rfl
@[simp] theorem State.setLink_sel (s : State) (k : Nat) (l : Link) : (s.setLink k l).sel = s.sel := rfl

/-- N_LINKS does not change when an instance is put back. -/
@[simp] theorem State.setLink_nLinks (s : State) (k : Nat) (l : Link) : (s.setLink k l).nLinks = s.nLinks := by
  simp [State.nLinks]

/-- The instance put back is read back. -/
theorem State.setLink_same (s : State) (k : Nat) (l l' : Link) (h : s.links[k]? = some l) :
    (s.setLink k l').links[k]? = some l' := by
  have hk : k < s.links.length := (List.getElem?_eq_some_iff.mp h).1
  simp [hk]

/-- Every other instance stays as it was. -/
theorem State.setLink_other (s : State) (k j : Nat) (l : Link) (h : j ≠ k) :
    (s.setLink k l).links[j]? = s.links[j]? := by
  simp [List.getElem?_set_ne (Ne.symm h)]

end Sys2Proof.Machine
end

