-- ==== Sys2Proof/Laws/Ops.lean ====
section
/-! SUPPORT. What each shared operation can do, said once. -/

namespace Sys2Proof.Machine

/-- Everything `onLink` can do when it answers a next state. -/
theorem State.onLink_next {s t : State} {f : Link → Except Refusal Link} :
    s.onLink f = .next t ↔ ∃ l l', s.ready l ∧ f l = .ok l' ∧ t = s.setLink s.sel l' := by
  unfold State.onLink
  constructor
  · intro h
    split at h
    · cases h
    · next l hl =>
      split at h
      · next hw =>
        split at h
        · next l' hf =>
          injection h with h
          exact ⟨l, l', ⟨hl, hw⟩, hf, h.symm⟩
        · cases h
      · cases h
  · rintro ⟨l, l', ⟨hl, hw⟩, hf, rfl⟩
    simp [hl, hw, hf]

/-- On a ready instance `onLink` does what the operation does. -/
theorem State.onLink_ready {s : State} {l : Link} (h : s.ready l) (f : Link → Except Refusal Link) :
    s.onLink f = match f l with
      | .ok l' => .next (s.setLink s.sel l')
      | .error r => .refused r := by
  obtain ⟨hl, hw⟩ := h
  cases hf : f l <;> simp [State.onLink, hl, hw, hf]

/-- On an instance that is not wired nothing runs. -/
theorem State.onLink_notWired {s : State} {l : Link} (hl : s.links[s.sel]? = some l) (hw : l.wiring.ready = false)
    (f : Link → Except Refusal Link) : s.onLink f = .refused .notWired := by
  simp [State.onLink, hl, hw]

/-- `onLink` never faults. -/
theorem State.onLink_not_fault (s : State) (f : Link → Except Refusal Link) (r : Fault) : s.onLink f ≠ .fault r := by
  unfold State.onLink
  split
  · simp
  · split
    · split <;> simp
    · simp

/-- Connecting a port again changes nothing (log entry 10). -/
theorem Wiring.connect_again (w : Wiring) (port : OutPort) : (w.connect port).connect port = w.connect port := by
  cases port <;> rfl

/-- BufAppend with room: the byte is appended and nothing is raised (20_memory R40). -/
theorem Link.bufAppend_room {p : Params} {l : Link} (h : p.bufCap ≠ some l.buf.length) (data rx : Byte) :
    l.bufAppend p data rx = ⟨{ l with buf := l.buf ++ [data] }, false⟩ := by
  simp [Link.bufAppend, h]

/-- BufAppend to a full buffer: an internal fault (20_memory R40). -/
theorem Link.bufAppend_full {p : Params} {l : Link} (h : p.bufCap = some l.buf.length) (data rx : Byte) :
    l.bufAppend p data rx = ⟨l.raiseInternal .bufOverflow rx, true⟩ := by
  simp [Link.bufAppend, h]

/-- What BufAppend leaves, in one record (20_memory R40). -/
theorem Link.bufAppend_link (p : Params) (l : Link) (data rx : Byte) :
    (l.bufAppend p data rx).link =
      if p.bufCap = some l.buf.length then
        { l with mode := .normal, buf := [], trace := l.trace ++ [.ev (.internalFault .bufOverflow rx l.buf.length)] }
      else { l with buf := l.buf ++ [data] } := by
  unfold Link.bufAppend; split <;> rfl

/-- BufAppend raises an event exactly when the buffer is full (20_memory R40). -/
theorem Link.bufAppend_raised (p : Params) (l : Link) (data rx : Byte) :
    (l.bufAppend p data rx).raised = decide (p.bufCap = some l.buf.length) := by
  unfold Link.bufAppend; split <;> simp [*]

/-- A decoder row on its own runs when its key selects it, and only then. -/
theorem Link.onDRow_ok {l l' : Link} {row : DRow} {b : Byte} {f : Link → Stepped} :
    l.onDRow row b f = .ok l' ↔ l.rowFor b = row ∧ l' = (f l).link := by
  unfold Link.onDRow
  split
  · next h => simp [h, eq_comm]
  · next h => simp [h]

/-- An encoder row on its own runs when its byte selects it, and only then. -/
theorem Link.onERow_ok {l l' : Link} {row : ERow} {b : Byte} {out : List Byte} :
    l.onERow row b out = .ok l' ↔ eRowOf b = row ∧ l' = { l with subTrace := l.subTrace ++ out } := by
  unfold Link.onERow
  split
  · next h => simp [h, eq_comm]
  · next h => simp [h]

/-! ## The projections of the trace -/

/-- rx_out over an append. -/
theorem Link.rxOut_append (l : Link) (rs : List Rec) :
    ({ l with trace := l.trace ++ rs } : Link).rxOut = l.rxOut ++ rs.filterMap (fun | .emit d => some d | _ => none) :=
  List.filterMap_append

end Sys2Proof.Machine
end

