-- ==== Sys2Proof/Laws/Decoder.lean ====
section
/-! SUPPORT. The RX agent: which transition runs, and what a stream of bytes does. -/

namespace Sys2Proof.Machine

/-- The row in NORMAL (30_encoding R66). -/
theorem Link.rowFor_normal {l : Link} (h : l.mode = .normal) (b : Byte) :
    l.rowFor b = if b = END then .nEnd else if b = ESC then .nEsc else .nData := by
  rw [Link.rowFor, h, dRowOf_normal]

/-- The row in ESCAPED (30_encoding R66). -/
theorem Link.rowFor_escaped {l : Link} (h : l.mode = .escaped) (b : Byte) :
    l.rowFor b = if b = ESC_END then .eEscEnd else if b = ESC_ESC then .eEscEsc else .eBad := by
  rw [Link.rowFor, h, dRowOf_escaped]

/-- D_N_END leaves the clean state and at most one record, the datagram (40_decoder R81). -/
theorem Link.transNEnd_link (l : Link) :
    l.transNEnd.link =
      { l with mode := .normal, buf := [], trace := if l.buf = [] then l.trace else l.trace ++ [.emit l.buf] } := by
  unfold Link.transNEnd
  by_cases h : l.buf = []
  · simp [h, Link.bufClear, Link.setMode]
  · have : l.buf.length > 0 := List.length_pos_iff.mpr h
    simp [h, this, Link.bufClear, Link.setMode, Link.emit, Link.record, Link.bufRead]

/-- D_E_ESCEND in one record (40_decoder R84). -/
theorem Link.transEEscEnd_link (p : Params) (l : Link) :
    (l.transEEscEnd p).link =
      if p.bufCap = some l.buf.length then
        { l with mode := .normal, buf := []
                 trace := l.trace ++ [.ev (.internalFault .bufOverflow ESC_END l.buf.length)] }
      else { l with mode := .normal, buf := l.buf ++ [END] } := by
  rw [Link.transEEscEnd, Link.bufAppend_link]; rfl

/-- D_E_ESCESC in one record (40_decoder R85). -/
theorem Link.transEEscEsc_link (p : Params) (l : Link) :
    (l.transEEscEsc p).link =
      if p.bufCap = some l.buf.length then
        { l with mode := .normal, buf := []
                 trace := l.trace ++ [.ev (.internalFault .bufOverflow ESC_ESC l.buf.length)] }
      else { l with mode := .normal, buf := l.buf ++ [ESC] } := by
  rw [Link.transEEscEsc, Link.bufAppend_link]; rfl

/-- Whatever row runs, an instance's wiring, draw counter and substitution outputs stay. -/
theorem Link.transition_frame (p : Params) (l : Link) (row : DRow) (b : Byte) :
    (l.transition p row b).link.wiring = l.wiring ∧ (l.transition p row b).link.draws = l.draws ∧
      (l.transition p row b).link.subTrace = l.subTrace := by
  cases row with
  | nEnd => simp [Link.transition, Link.transNEnd_link]
  | nEsc => simp [Link.transition, Link.transNEsc]
  | nData => simp only [Link.transition, Link.transNData, Link.bufAppend_link]; split <;> simp
  | eEscEnd => simp only [Link.transition, Link.transEEscEnd_link]; split <;> simp
  | eEscEsc => simp only [Link.transition, Link.transEEscEsc_link]; split <;> simp
  | eBad => simp [Link.transition, Link.transEBad]

/-- A transition that raised an event recorded that event alone and left the clean state; one that raised none recorded
nothing, or emitted its buffer and left the clean state (60_exceptions R150). -/
theorem Link.transition_records (p : Params) (l : Link) (row : DRow) (b : Byte) :
    let r := l.transition p row b
    (r.raised = true ∧ r.link.mode = .normal ∧ r.link.buf = [] ∧ ∃ e, r.link.trace = l.trace ++ [.ev e]) ∨
    (r.raised = false ∧ (r.link.trace = l.trace ∨
      (r.link.mode = .normal ∧ r.link.buf = [] ∧ l.buf ≠ [] ∧ r.link.trace = l.trace ++ [.emit l.buf]))) := by
  cases row with
  | nEnd =>
    right
    refine ⟨rfl, ?_⟩
    simp only [Link.transition, Link.transNEnd_link]
    by_cases h : l.buf = [] <;> simp [h]
  | nEsc => right; exact ⟨rfl, .inl rfl⟩
  | nData =>
    by_cases h : p.bufCap = some l.buf.length
    · left; simp [Link.transition, Link.transNData, Link.bufAppend_full h]
    · right; simp [Link.transition, Link.transNData, Link.bufAppend_room h]
  | eEscEnd =>
    by_cases h : p.bufCap = some (l.setMode .normal).buf.length
    · left; simp [Link.transition, Link.transEEscEnd, Link.bufAppend_full h]
    · right; simp [Link.transition, Link.transEEscEnd, Link.bufAppend_room h]
  | eEscEsc =>
    by_cases h : p.bufCap = some (l.setMode .normal).buf.length
    · left; simp [Link.transition, Link.transEEscEsc, Link.bufAppend_full h]
    · right; simp [Link.transition, Link.transEEscEsc, Link.bufAppend_room h]
  | eBad => left; simp [Link.transition, Link.transEBad]

/-- Everything RX_BYTE does to the rest of the instance: the wiring and the substitution outputs stay, and the draw counter
moves only where draws are admitted (40_decoder R88). -/
theorem Link.rxByte_frame (p : Params) (k : Nat) (l : Link) (b : Byte) :
    (l.rxByte p k b).wiring = l.wiring ∧ (l.rxByte p k b).subTrace = l.subTrace ∧
      (l.rxByte p k b).draws = if p.admitSpontaneousFault then l.draws + 1 else l.draws := by
  have hc : (l.countDraw p).draws = if p.admitSpontaneousFault then l.draws + 1 else l.draws := by
    unfold Link.countDraw; split <;> rfl
  have hf := Link.transition_frame p (l.countDraw p) ((l.countDraw p).rowFor b) b
  simp only [Link.countDraw_wiring, Link.countDraw_subTrace, hc] at hf
  unfold Link.rxByte Link.rxByteDrawn
  split
  · simp [hc]
  · simp [hf]
  · simp only
    split <;> simp [hf]

/-- With no spontaneous faults admitted RX_BYTE is its transition (40_decoder R80, R88). -/
theorem Link.rxByte_plain {p : Params} (hp : p.admitSpontaneousFault = false) (k : Nat) (l : Link) (b : Byte) :
    l.rxByte p k b = (l.transition p (l.rowFor b) b).link := by
  simp [Link.rxByte, Link.faultDraw, Link.countDraw, hp, Link.rxByteDrawn]

/-- The empty stream (40_decoder R91, decision D17). -/
@[simp] theorem Link.decodeStream_nil (p : Params) (k : Nat) (l : Link) : l.decodeStream p k [] = l := rfl

/-- One byte at a time (40_decoder R91). -/
@[simp] theorem Link.decodeStream_cons (p : Params) (k : Nat) (l : Link) (b : Byte) (bs : List Byte) :
    l.decodeStream p k (b :: bs) = (l.rxByte p k b).decodeStream p k bs := rfl

end Sys2Proof.Machine
end

