-- ==== Sys2Proof/Laws/Encoder.lean ====
section
/-! SUPPORT. The TX agent: the two passes and the substitution on one byte. -/

namespace Sys2Proof.Machine

/-- Pass 1 on ESC. -/
theorem pass1_esc (s : List Byte) : pass1 (ESC :: s) = ESC :: ESC_ESC :: pass1 s := rfl

/-- Pass 1 on any other byte. -/
theorem pass1_other {b : Byte} (h : b ≠ ESC) (s : List Byte) : pass1 (b :: s) = b :: pass1 s := by
  simp [pass1, h]

/-- Pass 2 on END. -/
theorem pass2_end (s : List Byte) : pass2 (END :: s) = ESC :: ESC_END :: pass2 s := rfl

/-- Pass 2 on any other byte. -/
theorem pass2_other {b : Byte} (h : b ≠ END) (s : List Byte) : pass2 (b :: s) = b :: pass2 s := by
  simp [pass2, h]

/-- `Sub(b)` (41_encoder R113). -/
theorem sub_eq (b : Byte) :
    sub b = if b = END then [ESC, ESC_END] else if b = ESC then [ESC, ESC_ESC] else [b] := by
  unfold sub
  rw [eRowOf_eq]
  by_cases h₁ : b = END
  · simp [h₁, subOfRow]
  · by_cases h₂ : b = ESC
    · subst h₂; rfl
    · simp [h₁, h₂, subOfRow]

end Sys2Proof.Machine
end

