-- ==== Sys2Proof/Laws/Fetch.lean ====
section
/-! SUPPORT. What a step does with each request of the host, and that no instruction faults. -/

namespace Sys2Proof.Machine

/-- One driven operation (70_reset R188). -/
theorem State.fetch_drive {s : State} {d : Drive} {rest : List Request} (h : s.host = .drive d :: rest) :
    s.fetch = s.take d rest := by
  simp [State.fetch, h]

/-- An encoded instruction driven on an instance. -/
theorem State.take_ok {d : Drive} {i : Instr} (h : decode d.word = .ok i) (s : State) (rest : List Request) :
    s.take d rest = .run i { s with host := rest, sel := d.link } := by
  simp [State.take, h]

/-- What an instruction does to the instance it runs on, with parameters `p`, as instance `k`. -/
def Link.runs (p : Params) (k : Nat) (i : Instr) (l : Link) : Except Refusal Link :=
  match i with
  | .reset => .ok l.clean
  | .rxByte b => .ok (l.rxByte p k b)
  | .txDatagram d => if txTooLong p d then .error .txTooLong else .ok (l.txWrite (encodeFrame d))
  | .dNEnd => l.onDRow .nEnd END fun l => l.transNEnd
  | .dNEsc => l.onDRow .nEsc ESC fun l => l.transNEsc
  | .dNData b => l.onDRow .nData b fun l => l.transNData p b
  | .dEEscEnd => l.onDRow .eEscEnd ESC_END fun l => l.transEEscEnd p
  | .dEEscEsc => l.onDRow .eEscEsc ESC_ESC fun l => l.transEEscEsc p
  | .dEBad b => l.onDRow .eBad b fun l => l.transEBad b
  | .eEnd => l.onERow .eEnd END (subOfRow .eEnd END)
  | .eEsc => l.onERow .eEsc ESC (subOfRow .eEsc ESC)
  | .eLit b => l.onERow .eLit b (subOfRow .eLit b)

/-- Every instruction reaches its instance through `onLink`. -/
theorem exec_eq_onLink (i : Instr) (s : State) : exec i s = s.onLink (Link.runs s.params s.sel i) := by
  cases i <;> rfl

/-- Everything an instruction can do when it answers a next state: it changes the selected instance, as `Link.runs` says,
and nothing else. -/
theorem exec_next {i : Instr} {s t : State} :
    exec i s = .next t ↔ ∃ l l', s.ready l ∧ Link.runs s.params s.sel i l = .ok l' ∧ t = s.setLink s.sel l' := by
  rw [exec_eq_onLink, State.onLink_next]

/-- No instruction ends in a fault. -/
theorem exec_not_fault (i : Instr) (s : State) (r : Fault) : exec i s ≠ .fault r := by
  rw [exec_eq_onLink]
  exact State.onLink_not_fault s _ r

/-- The same on a ready instance that is already named. -/
theorem exec_next_at {i : Instr} {s t : State} {l : Link} (h : s.ready l) (he : exec i s = .next t) :
    ∃ l', Link.runs s.params s.sel i l = .ok l' ∧ t = s.setLink s.sel l' := by
  obtain ⟨m, l', hm, hr, ht⟩ := exec_next.mp he
  have hml : m = l := by simpa using hm.1.symm.trans h.1
  subst hml
  exact ⟨l', hr, ht⟩

/-- An operation that completes on a ready instance gives it the instance that `Link.runs` says. -/
theorem exec_of_runs {i : Instr} {s : State} {l l' : Link} (h : s.ready l)
    (hr : Link.runs s.params s.sel i l = .ok l') : exec i s = .next (s.setLink s.sel l') :=
  exec_next.mpr ⟨l, l', h, hr, rfl⟩

/-- Everything an operation of the RX agent can be: RESET, an RX_BYTE, or the transition that some byte selects. -/
theorem Link.runs_rx_cases {p : Params} {k : Nat} {i : Instr} {l l' : Link} (ha : Agent.of i = .rx)
    (h : Link.runs p k i l = .ok l') :
    (i = .reset ∧ l' = l.clean) ∨ (∃ b, i = .rxByte b ∧ l' = l.rxByte p k b) ∨
      ∃ b, i = decodeKey (dKey l.mode b) ∧ l' = (l.transition p (l.rowFor b) b).link := by
  have row {r : DRow} {b : Byte} {f : Link → Stepped} (h : l.onDRow r b f = .ok l')
      (hf : (f l).link = (l.transition p r b).link) :
      dRowOf (dKey l.mode b) = r ∧ l' = (l.transition p (l.rowFor b) b).link := by
    obtain ⟨hr, hl⟩ := Link.onDRow_ok.mp h
    exact ⟨hr, by rw [hr, hl, hf]⟩
  cases i with
  | reset => exact .inl ⟨rfl, by cases h; rfl⟩
  | rxByte b => exact .inr (.inl ⟨b, rfl, by cases h; rfl⟩)
  | dNEnd =>
    obtain ⟨hr, hl⟩ := row (r := .nEnd) (b := END) h rfl
    exact .inr (.inr ⟨END, by simp [decodeKey, hr], hl⟩)
  | dNEsc =>
    obtain ⟨hr, hl⟩ := row (r := .nEsc) (b := ESC) h rfl
    exact .inr (.inr ⟨ESC, by simp [decodeKey, hr], hl⟩)
  | dNData b =>
    obtain ⟨hr, hl⟩ := row (r := .nData) (b := b) (f := fun l => l.transNData p b) h rfl
    exact .inr (.inr ⟨b, by simp [decodeKey, hr, keyByte_dKey], hl⟩)
  | dEEscEnd =>
    obtain ⟨hr, hl⟩ := row (r := .eEscEnd) (b := ESC_END) h rfl
    exact .inr (.inr ⟨ESC_END, by simp [decodeKey, hr], hl⟩)
  | dEEscEsc =>
    obtain ⟨hr, hl⟩ := row (r := .eEscEsc) (b := ESC_ESC) h rfl
    exact .inr (.inr ⟨ESC_ESC, by simp [decodeKey, hr], hl⟩)
  | dEBad b =>
    obtain ⟨hr, hl⟩ := row (r := .eBad) (b := b) (f := fun l => l.transEBad b) h rfl
    exact .inr (.inr ⟨b, by simp [decodeKey, hr, keyByte_dKey], hl⟩)
  | txDatagram _ => cases ha
  | eEnd => cases ha
  | eEsc => cases ha
  | eLit _ => cases ha

/-- Everything an operation of the TX agent can be: a frame written, or bytes added to the substitution outputs. -/
theorem Link.runs_tx_cases {p : Params} {k : Nat} {i : Instr} {l l' : Link} (ha : Agent.of i = .tx)
    (h : Link.runs p k i l = .ok l') :
    (∃ d, i = .txDatagram d ∧ l' = l.txWrite (encodeFrame d)) ∨
      ((∀ d, i ≠ .txDatagram d) ∧ ∃ out, l' = { l with subTrace := l.subTrace ++ out }) := by
  cases i with
  | txDatagram d =>
    simp only [Link.runs] at h
    split at h
    · cases h
    · cases h; exact .inl ⟨d, rfl, rfl⟩
  | eEnd => exact .inr ⟨by simp, _, (Link.onERow_ok.mp h).2⟩
  | eEsc => exact .inr ⟨by simp, _, (Link.onERow_ok.mp h).2⟩
  | eLit b => exact .inr ⟨by simp, _, (Link.onERow_ok.mp h).2⟩
  | _ => cases ha

/-- Everything taking the host's next request can come to. -/
theorem State.fetch_cases (s : State) :
    s.fetch = .idle ∨ (∃ i h k, s.fetch = .run i { s with host := h, sel := k }) ∨
      (∃ h, s.fetch = .moved { s with host := h }) ∨
      (∃ h k l port, s.links[k]? = some l ∧
        s.fetch = .moved { s.setLink k { l with wiring := l.wiring.connect port } with host := h }) ∨
      ∃ r, s.fetch = .refuse r := by
  unfold State.fetch
  split
  · exact .inl rfl
  · unfold State.take
    split
    · exact .inr (.inl ⟨_, _, _, rfl⟩)
    · exact .inr (.inr (.inr (.inr ⟨_, rfl⟩)))
  · unfold State.takeBoth
    split
    · split
      · split
        · exact .inr (.inr (.inr (.inr ⟨_, rfl⟩)))
        · exact .inr (.inr (.inr (.inr ⟨_, rfl⟩)))
      · exact .inr (.inr (.inl ⟨_, rfl⟩))
    · exact .inr (.inr (.inr (.inr ⟨_, rfl⟩)))
    · exact .inr (.inr (.inr (.inr ⟨_, rfl⟩)))
  · unfold State.connect
    split
    · exact .inr (.inr (.inr (.inr ⟨_, rfl⟩)))
    · next l hl => exact .inr (.inr (.inr (.inl ⟨_, _, l, _, hl, rfl⟩)))

end Sys2Proof.Machine
end

