-- ==== Sys2Proof/Laws/PerInstr.lean ====
section
/-! SUPPORT. Per instruction: what the decoder gives is well-formed. -/

namespace Sys2Proof.Laws.DecodedWf

/-- Whatever presented operation decodes to the instruction, the instruction is well-formed. -/
def Statement (i : Instr) : Prop := ∀ e, decode e = .ok i → i.wf = true

/-- A key decodes to a well-formed instruction. -/
theorem key_wf (k : BitVec 9) : (decodeKey k).wf = true := by
  rw [← dKey_fields k]
  cases keyMode k with
  | normal =>
    rw [decodeKey_normal]
    split <;> [rfl; (split <;> [rfl; simp_all [Instr.wf]])]
  | escaped =>
    rw [decodeKey_escaped]
    split <;> [rfl; (split <;> [rfl; simp_all [Instr.wf]])]

/-- A datagram byte decodes to a well-formed instruction. -/
theorem ebyte_wf (b : Byte) : (decodeEByte b).wf = true := by
  rw [decodeEByte_eq]
  split <;> [rfl; (split <;> [rfl; simp_all [Instr.wf]])]

/-- A command decodes to a command, and every command is well-formed. -/
theorem cmd_wf {w : BitVec 10} {d : List Byte} {i : Instr} (h : decodeCmd w d = .ok i) : i.wf = true := by
  unfold decodeCmd at h
  split at h
  · cases h
  · split at h <;> cases h; rfl
  · split at h <;> cases h; rfl
  · cases h; rfl

/-- The four formats together. -/
theorem decoded_wf (i : Instr) : Statement i := by
  intro e h
  cases e with
  | cmd w d => exact cmd_wf h
  | dkey k => cases h; exact key_wf k
  | ebyte b => cases h; exact ebyte_wf b
  | stray n w => cases h

theorem reset : Statement .reset := decoded_wf _
theorem rxByte (b : Byte) : Statement (.rxByte b) := decoded_wf _
theorem txDatagram (d : List Byte) : Statement (.txDatagram d) := decoded_wf _
theorem dNEnd : Statement .dNEnd := decoded_wf _
theorem dNEsc : Statement .dNEsc := decoded_wf _
theorem dNData (b : Byte) : Statement (.dNData b) := decoded_wf _
theorem dEEscEnd : Statement .dEEscEnd := decoded_wf _
theorem dEEscEsc : Statement .dEEscEsc := decoded_wf _
theorem dEBad (b : Byte) : Statement (.dEBad b) := decoded_wf _
theorem eEnd : Statement .eEnd := decoded_wf _
theorem eEsc : Statement .eEsc := decoded_wf _
theorem eLit (b : Byte) : Statement (.eLit b) := decoded_wf _

end Sys2Proof.Laws.DecodedWf
end

