-- ==== Sys2Proof/Tests/Slice0.lean ====
section
/-! SUPPORT. Tests on small states (expected values from 95_test_vectors and opcode_table.json), and a witness for the
hypotheses of every statement that has some. -/

namespace Sys2Proof.Tests

open Sys2Proof.Machine

/-- One instance in a given decoder state, outputs wired. -/
def link (m : Mode) (buf : List Byte) : Link := { Link.created Wiring.all with mode := m, buf := buf }

/-- A system of one instance. -/
def sys (p : Params) (l : Link) : State := { params := p, links := [l], host := [], sel := 0 }

/-- The source's parameters, with a bounded buffer. -/
def capped (k : Nat) : Params := { Params.source with bufCap := some k }

/-- The source's parameters, with spontaneous faults admitted. -/
def admitting : Params := { Params.source with admitSpontaneousFault := true }

/-- The mode, buffer and trace of the instance after one operation. -/
def after (i : Instr) (p : Params) (m : Mode) (buf : List Byte) : Option (Mode × List Byte × List Rec) :=
  match exec i (sys p (link m buf)) with
  | .next s => s.links.head?.map fun l => (l.mode, l.buf, l.trace)
  | _ => none

/-! ## Ill-formed terms are refused -/

theorem test_wf_dNData_end : Instr.wf (.dNData 0xC0#8) = false := by decide
theorem test_wf_dNData_esc : Instr.wf (.dNData 0xDB#8) = false := by decide
theorem test_wf_dEBad_escEnd : Instr.wf (.dEBad 0xDC#8) = false := by decide
theorem test_wf_dEBad_escEsc : Instr.wf (.dEBad 0xDD#8) = false := by decide
theorem test_wf_eLit_end : Instr.wf (.eLit 0xC0#8) = false := by decide
theorem test_wf_eLit_esc : Instr.wf (.eLit 0xDB#8) = false := by decide

/-! ## Words written out bit by bit from the "encoding" of opcode_table.json -/

theorem test_decode_reset : decode (.cmd 0b0000000000#10 []) = .ok .reset := by decide
theorem test_decode_rxByte : decode (.cmd 0b0101100001#10 []) = .ok (.rxByte 0x61#8) := by decide
theorem test_decode_txDatagram : decode (.cmd 0b1000000000#10 [1#8]) = .ok (.txDatagram [1#8]) := by decide
theorem test_decode_dNEnd : decode (.dkey 0b011000000#9) = .ok .dNEnd := by decide
theorem test_decode_dNEsc : decode (.dkey 0b011011011#9) = .ok .dNEsc := by decide
theorem test_decode_dNData : decode (.dkey 0b001100001#9) = .ok (.dNData 0x61#8) := by decide
theorem test_decode_dEEscEnd : decode (.dkey 0b111011100#9) = .ok .dEEscEnd := by decide
theorem test_decode_dEEscEsc : decode (.dkey 0b111011101#9) = .ok .dEEscEsc := by decide
theorem test_decode_dEBad : decode (.dkey 0b111000000#9) = .ok (.dEBad 0xC0#8) := by decide
theorem test_decode_eEnd : decode (.ebyte 0b11000000#8) = .ok .eEnd := by decide
theorem test_decode_eEsc : decode (.ebyte 0b11011011#8) = .ok .eEsc := by decide
theorem test_decode_eLit : decode (.ebyte 0b11011100#8) = .ok (.eLit 0xDC#8) := by decide

/-- V-K2, V-K6, V-K7. -/
theorem test_reserved_words :
    decode (.cmd 0x001#10 []) = .error (.reservedCommand 0x001#10) ∧
    decode (.cmd 0x201#10 []) = .error (.reservedCommand 0x201#10) ∧
    decode (.cmd 0x300#10 []) = .error (.reservedCommand 0x300#10) ∧
    decode (.cmd 0x3FF#10 []) = .error (.reservedCommand 0x3FF#10) := by decide

/-- The table's words by their width (log entry 11). -/
theorem test_table_words :
    decodeTableWord 16 0x000 = some .reset ∧ decodeTableWord 16 0x1C0 = some (.rxByte 0xC0#8) ∧
    decodeTableWord 16 0x200 = some (.txDatagram []) ∧ decodeTableWord 16 0x0C0 = some .dNEnd ∧
    decodeTableWord 16 0x0DB = some .dNEsc ∧ decodeTableWord 9 0x1DC = some .dEEscEnd ∧
    decodeTableWord 10 0x0C0 = none ∧ decodeTableWord 16 0x3FF = none ∧
    decodeTableWord 8 0xC0 = some .eEnd ∧ decodeTableWord 8 0x00 = some (.eLit 0#8) := by decide

/-! ## One step each -/

/-- V-K1. -/
theorem test_reset : after .reset Params.source .escaped [1#8, 2#8] = some (.normal, [], []) := by decide

/-- V-D2. -/
theorem test_rxByte_end :
    after (.rxByte 0xC0#8) Params.source .normal [1#8, 2#8] = some (.normal, [], [.emit [1#8, 2#8]]) := by decide

/-- V-D14. -/
theorem test_rxByte_esc_after_esc :
    after (.rxByte 0xDB#8) Params.source .escaped [1#8, 2#8] =
      some (.normal, [], [.ev (.malformedFrame 0xDB#8 2)]) := by decide

/-- V-E9. -/
theorem test_txDatagram :
    after (.txDatagram [0xDB#8, 0xC0#8]) Params.source .escaped [7#8] =
      some (.escaped, [7#8], [.tx [0xC0#8, 0xDB#8, 0xDD#8, 0xDB#8, 0xDC#8, 0xC0#8]]) := by decide

/-- V-E14. -/
theorem test_txDatagram_too_long :
    after (.txDatagram [1#8, 2#8, 3#8]) { Params.source with maxTxLen := some 2 } .normal [] = none := by decide

/-- V-D1 and V-D17. -/
theorem test_dNEnd :
    after .dNEnd Params.source .normal [] = some (.normal, [], []) ∧
    after .dNEnd Params.source .normal [0xC0#8, 0xDB#8] = some (.normal, [], [.emit [0xC0#8, 0xDB#8]]) := by decide

/-- V-D4; the row does not run in ESCAPED. -/
theorem test_dNEsc :
    after .dNEsc Params.source .normal [1#8] = some (.escaped, [1#8], []) ∧
    after .dNEsc Params.source .escaped [1#8] = none := by decide

/-- V-D6, and the third byte of V-O1. -/
theorem test_dNData :
    after (.dNData 0xDC#8) Params.source .normal [1#8] = some (.normal, [1#8, 0xDC#8], []) ∧
    after (.dNData 3#8) (capped 2) .normal [1#8, 2#8] =
      some (.normal, [], [.ev (.internalFault .bufOverflow 3#8 2)]) := by decide

/-- V-D10, and the overflow of V-O3, which carries the byte DC. -/
theorem test_dEEscEnd :
    after .dEEscEnd Params.source .escaped [1#8] = some (.normal, [1#8, 0xC0#8], []) ∧
    after .dEEscEnd (capped 2) .escaped [1#8, 2#8] =
      some (.normal, [], [.ev (.internalFault .bufOverflow 0xDC#8 2)]) := by decide

/-- V-D11. -/
theorem test_dEEscEsc : after .dEEscEsc Params.source .escaped [] = some (.normal, [0xDB#8], []) := by decide

/-- V-D13. -/
theorem test_dEBad :
    after (.dEBad 0xC0#8) Params.source .escaped [] = some (.normal, [], [.ev (.malformedFrame 0xC0#8 0)]) := by decide

/-- The substitution outputs after one operation. -/
def subAfter (i : Instr) : Option (List Byte) :=
  match exec i (sys Params.source (link .normal [])) with
  | .next s => s.links.head?.map (·.subTrace)
  | _ => none

theorem test_eEnd : subAfter .eEnd = some [0xDB#8, 0xDC#8] := by decide
theorem test_eEsc : subAfter .eEsc = some [0xDB#8, 0xDD#8] := by decide
theorem test_eLit : subAfter (.eLit 0xDD#8) = some [0xDD#8] ∧ subAfter (.eLit 0xC0#8) = none := by decide

/-- V-F1 (draw BEFORE). -/
theorem test_draw_before :
    ((link .normal [1#8]).rxByteDrawn admitting .before 0xC0#8).trace =
      [.ev (.internalFault .spontaneous 0xC0#8 1)] := by decide

/-- V-F2 (draw AFTER a transition that raised nothing). -/
theorem test_draw_after :
    ((link .normal [1#8]).rxByteDrawn admitting .after 0xC0#8).trace =
      [.emit [1#8], .ev (.internalFault .spontaneous 0xC0#8 0)] := by decide

/-- V-F4 (AFTER does not stack on a raised event). -/
theorem test_draw_after_raised :
    ((link .escaped [1#8]).rxByteDrawn admitting .after 0x41#8).trace = [.ev (.malformedFrame 0x41#8 1)] := by decide

/-- V-S2: the quirk of an invalid escape, on a short stream. -/
theorem test_stream_bad_escape :
    ((link .normal []).decodeStream Params.source 0 [0xC0#8, 0x61#8, 0xDB#8, 0x41#8, 0x62#8, 0xC0#8]).trace =
      [.ev (.malformedFrame 0x41#8 1), .emit [0x62#8]] := by decide

/-- A word of each row, presented right after reset, runs as the very first step (log entries 5, 11). -/
theorem test_first_step_after_reset :
    (∃ t, step (State.reset.withFetchWord 16 0x000) = .next t) ∧
    (∃ t, step (State.reset.withFetchWord 16 0x100) = .next t) ∧
    (∃ t, step (State.reset.withFetchWord 16 0x200) = .next t) ∧
    (∃ t, step (State.reset.withFetchWord 16 0x0C0) = .next t) ∧
    (∃ t, step (State.reset.withFetchWord 16 0x0DB) = .next t) ∧
    (∃ t, step (State.reset.withFetchWord 9 0x000) = .next t) ∧
    (∃ t, step (State.reset.withFetchWord 9 0x1DC) = .next t) ∧
    (∃ t, step (State.reset.withFetchWord 9 0x1DD) = .next t) ∧
    (∃ t, step (State.reset.withFetchWord 9 0x100) = .next t) ∧
    (∃ t, step (State.reset.withFetchWord 8 0xC0) = .next t) ∧
    (∃ t, step (State.reset.withFetchWord 8 0xDB) = .next t) ∧
    (∃ t, step (State.reset.withFetchWord 8 0x00) = .next t) :=
  ⟨⟨_, rfl⟩, ⟨_, rfl⟩, ⟨_, rfl⟩, ⟨_, rfl⟩, ⟨_, rfl⟩, ⟨_, rfl⟩, ⟨_, rfl⟩, ⟨_, rfl⟩, ⟨_, rfl⟩, ⟨_, rfl⟩, ⟨_, rfl⟩, ⟨_, rfl⟩⟩

/-- A key presented after reset brings its mode along: D_E_ESCEND appends the literal END. -/
theorem test_presented_key :
    (match step (State.reset.withFetchWord 9 0x1DC) with
      | .next s => s.links.head?.map fun l => (l.mode, l.buf)
      | _ => none) = some (.normal, [0xC0#8]) := by decide

/-- Two lines in the notation of 95_test_vectors P1 and P5, with a comment. -/
theorem test_assembler :
    parseProgram ['r','x',' ','D','D',' ','C','0',' ',';','x','\n','t','x',' ','[','0','1',' ','C','0',']'] =
      some [.rx [0xDD#8, 0xC0#8], .tx [1#8, 0xC0#8]] := by decide

/-- The first and the last digit of each run, and the characters next to them. -/
theorem test_hexDigit :
    ['0', '9', 'A', 'F', 'a', 'f'].map hexDigit = [some 0, some 9, some 10, some 15, some 10, some 15] ∧
    ['/', ':', '@', 'G', '`', 'g'].map hexDigit = [none, none, none, none, none, none] := by decide

/-- The command word of `rxb C0` is 0x1C0 (30_encoding R73). -/
theorem test_assemble_rxb :
    assemble 0 [.rxb 0xC0#8] = [.drive { link := 0, word := .cmd 0x1C0#10 [] }] := by decide

/-! ## Witnesses: the hypotheses of each statement are met -/

/-- A request list for a system of one instance. -/
def driving (p : Params) (l : Link) (h : List Request) : State := { sys p l with host := h }

theorem ready_sys (p : Params) (m : Mode) (buf : List Byte) : (sys p (link m buf)).ready (link m buf) := ⟨rfl, rfl⟩

theorem witness_DecodeOfEncodeIsTheInstruction :
    (Instr.dNData 0x61#8).wf = true ∧ (Instr.dEBad 0xC0#8).wf = true ∧ (Instr.eLit 0xDC#8).wf = true := by decide

theorem witness_EncodeOfDecodeIsTheWord : decode (.cmd 0x161#10 []) = .ok (.rxByte 0x61#8) := by decide

theorem witness_CommandWordsDecodeByTheirFields :
    (0x200#10).extractLsb' 8 2 = 0b10#2 ∧ (0x200#10).extractLsb' 0 8 = 0x00#8 := by decide

theorem witness_StrayOperandIsRefused :
    decode (.cmd 0x000#10 []) = .ok .reset ∧ Instr.reset ≠ .txDatagram [] ∧ [1#8] ≠ ([] : List Byte) := by decide

theorem witness_StepRunsTheDecodedInstruction :
    (driving Params.source (link .normal []) [.drive ⟨0, .cmd 0x161#10 []⟩]).host = [.drive ⟨0, .cmd 0x161#10 []⟩] ∧
    decode (.cmd 0x161#10 []) = .ok (.rxByte 0x61#8) := by decide

theorem witness_PresentedTableWordRuns :
    decodeTableWord 16 0x161 = some (.rxByte 0x61#8) ∧ decodeTableWord 9 0x1DC = some .dEEscEnd ∧
    decodeTableWord 8 0xDB = some .eEsc := by decide

/-- Each of the three kinds of reserved word, at the ends of its range. -/
theorem witness_ReservedCommandIsRefused :
    (0x300#10).extractLsb' 8 2 = 0b11#2 ∧ (0x3FF#10).extractLsb' 8 2 = 0b11#2 ∧
    ((0x001#10).extractLsb' 0 8 ≠ 0x00#8 ∧ (0x001#10).extractLsb' 8 2 = 0b00#2) ∧
    ((0x2FF#10).extractLsb' 0 8 ≠ 0x00#8 ∧ (0x2FF#10).extractLsb' 8 2 = 0b10#2) ∧
    (driving Params.source (link .normal []) [.drive ⟨0, .cmd 0x300#10 []⟩]).host =
      [.drive { link := 0, word := .cmd 0x300#10 [] }] := by decide

theorem witness_IdleBlockKeepsItsState : State.reset.host = [] := by decide

theorem witness_ConcurrentOperationsOfOneAgentAreRefused :
    decode (.cmd 0x161#10 []) = .ok (.rxByte 0x61#8) ∧ decode (.cmd 0x000#10 []) = .ok .reset ∧
    Agent.of (.rxByte 0x61#8) = Agent.of .reset ∧
    (driving Params.source (link .normal []) [.overlap ⟨0, .cmd 0x161#10 []⟩ ⟨0, .cmd 0x000#10 []⟩]).host =
      [.overlap ⟨0, .cmd 0x161#10 []⟩ ⟨0, .cmd 0x000#10 []⟩] := by decide

/-- The TX agent's side of the same statement. -/
theorem witness_ConcurrentTx :
    decode (.cmd 0x200#10 []) = .ok (.txDatagram []) ∧ Agent.of (.txDatagram []) = .tx := by decide

/-- Two agents of one instance, and one agent of two instances. -/
theorem witness_OverlapOfTwoAgentsIsTwoOperations :
    decode (.cmd 0x161#10 []) = .ok (.rxByte 0x61#8) ∧ decode (.cmd 0x200#10 [1#8]) = .ok (.txDatagram [1#8]) ∧
    Agent.of (.rxByte 0x61#8) ≠ Agent.of (.txDatagram [1#8]) ∧
    (driving Params.source (link .normal []) [.overlap ⟨0, .cmd 0x161#10 []⟩ ⟨1, .cmd 0x161#10 []⟩]).host =
      [.overlap ⟨0, .cmd 0x161#10 []⟩ ⟨1, .cmd 0x161#10 []⟩] := by decide

/-- An instance with one output open, and an index that is no instance. -/
theorem witness_NoOperationWithoutAWiredInstance :
    (sys Params.source (Link.created ⟨true, true, false⟩)).links[0]? = some (Link.created ⟨true, true, false⟩) ∧
    (true && true && false) = false ∧ State.nLinks { State.reset with sel := 1 } ≤ 1 := by decide

/-- The choice of log entry 18: a pair with a reserved word is refused, in either order, and the first such word is named. -/
theorem test_overlap_undecoded :
    step (driving Params.source (link .normal []) [.overlap ⟨0, .cmd 0x200#10 [1#8]⟩ ⟨0, .cmd 0x300#10 []⟩]) =
      .refused (.undecoded (.reservedCommand 0x300#10)) ∧
    step (driving Params.source (link .normal []) [.overlap ⟨0, .cmd 0x300#10 []⟩ ⟨0, .cmd 0x001#10 []⟩]) =
      .refused (.undecoded (.reservedCommand 0x300#10)) := ⟨rfl, rfl⟩

theorem witness_BootOrderMakesAnInstanceReady : (1 : Nat) < 2 := by decide

theorem witness_ready_normal :
    (sys Params.source (link .normal [1#8])).ready (link .normal [1#8]) ∧ (link .normal [1#8]).mode = .normal ∧
    (sys Params.source (link .normal [1#8])).params.admitSpontaneousFault = false := by decide

/-- The buffer exactly full, and one byte short of full. -/
theorem witness_ready_normal_full :
    (sys (capped 1) (link .normal [1#8])).ready (link .normal [1#8]) ∧
    (sys (capped 1) (link .normal [1#8])).params.bufCap = some (link .normal [1#8]).buf.length ∧
    (sys (capped 2) (link .normal [1#8])).params.bufCap ≠ some (link .normal [1#8]).buf.length ∧
    (0x61#8 : Byte) ≠ 0xC0#8 ∧ (0x61#8 : Byte) ≠ 0xDB#8 := by decide

theorem witness_ready_escaped :
    (sys Params.source (link .escaped [1#8])).ready (link .escaped [1#8]) ∧ (link .escaped [1#8]).mode = .escaped ∧
    (sys Params.source (link .escaped [1#8])).params.admitSpontaneousFault = false ∧
    (0xC0#8 : Byte) ≠ 0xDC#8 ∧ (0xC0#8 : Byte) ≠ 0xDD#8 := by decide

theorem witness_ready_escaped_full :
    (sys (capped 1) (link .escaped [1#8])).ready (link .escaped [1#8]) ∧
    (sys (capped 1) (link .escaped [1#8])).params.bufCap = some (link .escaped [1#8]).buf.length := by decide

theorem witness_SpontaneousFaultsFollowTheDraw :
    (sys admitting (link .normal [1#8])).ready (link .normal [1#8]) ∧
    (sys admitting (link .normal [1#8])).params.admitSpontaneousFault = true ∧
    (sys Params.source (link .normal [1#8])).params.admitSpontaneousFault = false := by decide

/-- MAX_TX_LEN unbounded, met exactly, and passed by one byte. -/
theorem witness_TxDatagramWritesItsFrame :
    (sys Params.source (link .normal [])).ready (link .normal []) ∧ Params.source.maxTxLen = none ∧
    ({ Params.source with maxTxLen := some 2 } : Params).maxTxLen = some 2 ∧
    ¬ 2 < [1#8, 2#8].length ∧ 2 < [1#8, 2#8, 3#8].length := by decide

theorem witness_EncoderRowsOutputTheirSubstitution :
    (sys Params.source (link .escaped [])).ready (link .escaped []) ∧ (0xDC#8 : Byte) ≠ 0xC0#8 ∧
    (0xDC#8 : Byte) ≠ 0xDB#8 := by decide

theorem witness_ReadyInstanceRefusesOnlyByName :
    exec .dNEnd (sys Params.source (link .escaped [])) = .refused .rowNotSelected ∧
    exec (.txDatagram [1#8]) (sys { Params.source with maxTxLen := some 0 } (link .normal [])) =
      .refused .txTooLong := ⟨rfl, rfl⟩

theorem witness_EventCodesReadBack : (0 : Nat) = 0 ∨ 3 ≤ 0 := by decide

/-- Some next state of an operation on a ready instance, one for each agent: the premises of the statements on frames. -/
theorem witness_exec_next :
    (∃ t, exec (.rxByte 0xDB#8) (sys Params.source (link .normal [1#8])) = .next t) ∧
    (∃ t, exec (.txDatagram [1#8]) (sys Params.source (link .normal [1#8])) = .next t) ∧
    (∃ t, exec .eEnd (sys Params.source (link .normal [1#8])) = .next t) ∧
    Agent.of (.rxByte 0xDB#8) = .rx ∧ Agent.of (.txDatagram [1#8]) = .tx := ⟨⟨_, rfl⟩, ⟨_, rfl⟩, ⟨_, rfl⟩, rfl, rfl⟩

/-- ESCAPED entered, and left. -/
theorem witness_EscapedLastsExactlyOneByte :
    after (.rxByte 0xDB#8) Params.source .normal [1#8] = some (.escaped, [1#8], []) ∧
    after (.rxByte 0xDC#8) Params.source .escaped [1#8] = some (.normal, [1#8, 0xC0#8], []) := by decide

theorem witness_StepOnlyAppendsToTraces :
    (∃ t, step (driving Params.source (link .normal [1#8]) [.drive ⟨0, .cmd 0x1C0#10 []⟩]) = .next t) ∧
    (driving Params.source (link .normal [1#8]) []).links[0]? = some (link .normal [1#8]) := ⟨⟨_, rfl⟩, rfl⟩

theorem witness_MalformedFrameOnlyFromABadEscape :
    exec (.rxByte 0x41#8) (sys Params.source (link .escaped [1#8])) =
      .next (sys Params.source { link .normal [] with trace := [.ev (.malformedFrame 0x41#8 1)] }) ∧
    ({ link .normal [] with trace := [.ev (.malformedFrame 0x41#8 1)] } : Link).evOut =
      (link .escaped [1#8]).evOut ++ [.malformedFrame 0x41#8 1] := ⟨rfl, by decide⟩

theorem witness_EncoderProducesExactlyTheFrames :
    isFrame [0xC0#8, 0xDB#8, 0xDC#8, 0xC0#8] = true ∧ isFrame [0xC0#8] = false ∧
    isFrame [0xC0#8, 0xDB#8, 0xC0#8] = false := by decide

theorem witness_EveryFrameHasTheShape :
    (encodeFrame [0xDB#8])[1]? = some 0xDB#8 ∧ 0 < 1 ∧ 1 < (encodeFrame [0xDB#8]).length - 1 := by decide

theorem witness_DrivenBytesDecodeAsAStream :
    (driving Params.source (link .normal []) (driveAll 0 [.rxByte 0x61#8])).links[0]? = some (link .normal []) ∧
    (link .normal []).wiring.ready = true ∧
    (driving Params.source (link .normal []) (driveAll 0 [.rxByte 0x61#8])).host =
      driveAll 0 ([0x61#8].map .rxByte) ++ [] := by decide

/-- BUF_CAP unbounded, and bounded by exactly the datagram's length. -/
theorem witness_FrameDecodesFromAnyState :
    Params.source.admitSpontaneousFault = false ∧ (capped 2).admitSpontaneousFault = false ∧
    (capped 2).bufCap = some 2 ∧ [1#8, 2#8].length ≤ 2 := by decide

theorem witness_NextFrameDecodesAfterAnEvent :
    ((link .escaped [1#8]).rxByte Params.source 0 0x41#8).evOut ≠ (link .escaped [1#8]).evOut := by decide

theorem witness_EveryDecoderStateIsReachable :
    (capped 1).admitSpontaneousFault = false ∧ (capped 1).bufCap = some 1 ∧ [1#8].length ≤ 1 ∧
    (link .normal []).mode = .normal ∧ (link .normal []).buf = [] := by decide

theorem witness_PayloadPastTheCapacityOverflows :
    (capped 2).admitSpontaneousFault = false ∧ (capped 2).bufCap = some 2 ∧ [1#8, 2#8].length = 2 ∧
    [4#8].length ≤ 2 ∧ (link .normal []).mode = .normal ∧ (link .normal []).buf = [] := by decide

theorem witness_RxAndTxOperationsCommute :
    Agent.of (.rxByte 0xC0#8) = .rx ∧ Agent.of (.txDatagram [1#8]) = .tx ∧
    (∃ a, exec (.rxByte 0xC0#8) (sys Params.source (link .normal [1#8])) = .next a) ∧
    (∃ c, exec (.txDatagram [1#8]) (sys Params.source (link .normal [1#8])) = .next c) := ⟨rfl, rfl, ⟨_, rfl⟩, ⟨_, rfl⟩⟩

theorem witness_OperationsOfTwoInstancesCommute :
    (0 : Nat) ≠ 1 ∧
    (∃ a, exec .dNEsc { State.built Params.source 2 Wiring.all with sel := 0 } = .next a) ∧
    (∃ c, exec (.rxByte 0x61#8) { State.built Params.source 2 Wiring.all with sel := 1 } = .next c) :=
  ⟨by decide, ⟨_, rfl⟩, ⟨_, rfl⟩⟩

/-- Two systems that differ in the second instance only. -/
theorem witness_OtherInstancesCannotBeSeen :
    (State.built Params.source 1 Wiring.all).params = (State.built Params.source 2 Wiring.all).params ∧
    (State.built Params.source 1 Wiring.all).sel = (State.built Params.source 2 Wiring.all).sel ∧
    (State.built Params.source 1 Wiring.all).links[0]? = (State.built Params.source 2 Wiring.all).links[0]? ∧
    ∃ t, exec (.rxByte 0x61#8) (State.built Params.source 1 Wiring.all) = .next t := ⟨rfl, rfl, rfl, ⟨_, rfl⟩⟩

theorem witness_ResetStateIsClean : ∃ t, exec .reset State.reset = .next t := ⟨_, rfl⟩

theorem witness_InvariantHoldsWhenBuilt : Params.source.wf = true ∧ (capped 1).wf = true ∧ (capped 0).wf = false := by
  decide

/-- The invariant holds in a state that is not the reset state, and a step runs from it. -/
theorem witness_StepKeepsTheInvariant :
    (driving (capped 1) (link .escaped [1#8]) [.drive ⟨0, .cmd 0x1DC#10 []⟩]).inv = true ∧
    ∃ t, step (driving (capped 1) (link .escaped [1#8]) [.drive ⟨0, .cmd 0x1DC#10 []⟩]) = .next t :=
  ⟨by decide, ⟨_, rfl⟩⟩

end Sys2Proof.Tests
end

section
/-! ## Frames are in the language of 30_encoding R61 -/

namespace Sys2Proof

/-- A plain byte before a payload (30_encoding R61). -/
theorem payloadOk_plain {b : Byte} (hEnd : b ≠ END) (hEsc : b ≠ ESC) (s : List Byte) :
    payloadOk (b :: s) = payloadOk s := by
  cases s <;> simp [payloadOk, hEnd, hEsc]

/-- An escaped END before a payload (30_encoding R61). -/
theorem payloadOk_escEnd (s : List Byte) : payloadOk (ESC :: ESC_END :: s) = payloadOk s := by
  simp [payloadOk]

/-- An escaped ESC before a payload (30_encoding R61). -/
theorem payloadOk_escEsc (s : List Byte) : payloadOk (ESC :: ESC_ESC :: s) = payloadOk s := by
  simp [payloadOk]

/-- `END p END` is a frame exactly when `p` is a payload (30_encoding R61). -/
theorem isFrame_delimited (p : List Byte) : isFrame ([END] ++ p ++ [END]) = payloadOk p := by
  simp [isFrame]

end Sys2Proof

namespace Sys2Proof.Machine

/-- The two passes give a payload (41_encoder R111, R112). -/
theorem payloadOk_passes (d : List Byte) : payloadOk (pass2 (pass1 d)) = true := by
  induction d with
  | nil => rfl
  | cons b d ih =>
    by_cases hEsc : b = ESC
    · subst hEsc
      rwa [pass1_esc, pass2_other esc_ne_end, pass2_other escEsc_ne_end, payloadOk_escEsc]
    · rw [pass1_other hEsc]
      by_cases hEnd : b = END
      · subst hEnd
        rwa [pass2_end, payloadOk_escEnd]
      · rwa [pass2_other hEnd, payloadOk_plain hEnd hEsc]

/-- What the encoder produces is a frame (41_encoder R119). -/
theorem isFrame_encodeFrame (d : List Byte) : isFrame (encodeFrame d) = true :=
  (isFrame_delimited _).trans (payloadOk_passes d)

end Sys2Proof.Machine
end

section
/-! ## What an operation adds to the trace of its link -/

namespace Sys2Proof.Machine

/-- `l'` has the trace of `l` and after it at most `n` records, all of them legal. -/
def Link.Appends (n : Nat) (l l' : Link) : Prop :=
  ∃ rs : List Rec, l'.trace = l.trace ++ rs ∧ rs.length ≤ n ∧ rs.all (·.legal) = true

theorem Link.Appends.of_trace_eq {l l' : Link} (h : l'.trace = l.trace) (n : Nat) : l.Appends n l' :=
  ⟨[], by simp [h]⟩

theorem Link.Appends.of_record {l l' : Link} {r : Rec} (h : l'.trace = l.trace ++ [r]) (hr : r.legal = true) :
    l.Appends 1 l' :=
  ⟨[r], by simp [h, hr]⟩

theorem Link.Appends.mono {n m : Nat} {l l' : Link} (h : l.Appends n l') (hnm : n ≤ m) : l.Appends m l' := by
  obtain ⟨rs, htrace, hlen, hlegal⟩ := h
  exact ⟨rs, htrace, hlen.trans hnm, hlegal⟩

theorem Link.Appends.trans {n m : Nat} {l l' l'' : Link} (h : l.Appends n l') (h' : l'.Appends m l'') :
    l.Appends (n + m) l'' := by
  obtain ⟨rs, htrace, hlen, hlegal⟩ := h
  obtain ⟨rs', htrace', hlen', hlegal'⟩ := h'
  refine ⟨rs ++ rs', by simp [htrace', htrace], ?_, by simp [hlegal, hlegal']⟩
  simpa using Nat.add_le_add hlen hlen'

/-- A transition adds at most one record, and never an empty datagram (10_state R28 (I3)). -/
theorem Link.transition_appends (p : Params) (l : Link) (row : DRow) (b : Byte) :
    l.Appends 1 (l.transition p row b).link := by
  obtain ⟨_, _, _, e, htrace⟩ | ⟨_, htrace | ⟨_, _, hbuf, htrace⟩⟩ := l.transition_records p row b
  · exact .of_record htrace rfl
  · exact .of_trace_eq htrace 1
  · exact .of_record htrace (by simpa [Rec.legal] using hbuf)

/-- An internal fault adds its event (60_exceptions R146). -/
theorem Link.raiseInternal_appends (l : Link) (c : Cause) (b : Byte) : l.Appends 1 (l.raiseInternal c b) :=
  .of_record (l.raiseInternal_trace c b) rfl

/-- RX_BYTE adds at most two records: what its transition records, and a spontaneous fault after it (40_decoder R80). -/
theorem Link.rxByteDrawn_appends (p : Params) (f : Draw) (l : Link) (b : Byte) :
    l.Appends 2 (l.rxByteDrawn p f b) := by
  have htrans := l.transition_appends p (l.rowFor b) b
  cases f with
  | none => exact htrans.mono (by decide)
  | before => exact (l.raiseInternal_appends .spontaneous b).mono (by decide)
  | after =>
    simp only [Link.rxByteDrawn]
    split
    · exact htrans.mono (by decide)
    · exact htrans.trans (Link.raiseInternal_appends _ .spontaneous b)

theorem Link.rxByte_appends (p : Params) (k : Nat) (l : Link) (b : Byte) : l.Appends 2 (l.rxByte p k b) := by
  have hcount : l.Appends 0 (l.countDraw p) := .of_trace_eq (l.countDraw_trace p) 0
  exact (hcount.trans (Link.rxByteDrawn_appends ..)).mono (by decide)

/-- TX_DATAGRAM adds one record, a frame (41_encoder R119). -/
theorem Link.txWrite_encodeFrame_appends (l : Link) (d : List Byte) : l.Appends 1 (l.txWrite (encodeFrame d)) :=
  .of_record (l.txWrite_trace (encodeFrame d)) (isFrame_encodeFrame d)

/-- Every instruction adds at most two records, all of them legal (10_state R25, 60_exceptions R150). -/
theorem Link.runs_appends {p : Params} {k : Nat} {i : Instr} {l l' : Link} (h : Link.runs p k i l = .ok l') :
    l.Appends 2 l' := by
  cases ha : Agent.of i with
  | rx =>
    obtain ⟨_, rfl⟩ | ⟨b, _, rfl⟩ | ⟨b, _, rfl⟩ := Link.runs_rx_cases ha h
    · exact .of_trace_eq l.clean_trace 2
    · exact l.rxByte_appends p k b
    · exact (l.transition_appends p _ b).mono (by decide)
  | tx =>
    obtain ⟨d, _, rfl⟩ | ⟨_, out, rfl⟩ := Link.runs_tx_cases ha h
    · exact (l.txWrite_encodeFrame_appends d).mono (by decide)
    · exact .of_trace_eq rfl 2

end Sys2Proof.Machine
end

section
/-! ## The buffer stays within BUF_CAP (10_state R22) -/

namespace Sys2Proof.Machine

theorem Link.withinCap_iff {p : Params} {l : Link} :
    l.withinCap p = true ↔ ∀ c, p.bufCap = some c → l.buf.length ≤ c := by
  unfold Link.withinCap
  cases p.bufCap <;> simp

theorem Link.withinCap_of_buf_nil {p : Params} {l : Link} (h : l.buf = []) : l.withinCap p = true := by
  simp [Link.withinCap_iff, h]

theorem Link.withinCap_of_buf_eq {p : Params} {l l' : Link} (h : l'.buf = l.buf) (hl : l.withinCap p = true) :
    l'.withinCap p = true := by
  rw [Link.withinCap_iff] at hl ⊢
  rwa [h]

/-- An append to a full buffer clears it, and any other append has room (20_memory R40). -/
theorem Link.bufAppend_withinCap {p : Params} {l : Link} (h : l.withinCap p = true) (data rx : Byte) :
    (l.bufAppend p data rx).link.withinCap p = true := by
  by_cases hfull : p.bufCap = some l.buf.length
  · rw [Link.bufAppend_full hfull]
    exact withinCap_of_buf_nil rfl
  · rw [Link.bufAppend_room hfull, Link.withinCap_iff]
    intro c hc
    have hle : l.buf.length ≤ c := Link.withinCap_iff.mp h c hc
    have hne : l.buf.length ≠ c := fun heq => hfull (heq ▸ hc)
    simpa using Nat.lt_of_le_of_ne hle hne

theorem Link.transition_withinCap {p : Params} {l : Link} (h : l.withinCap p = true) (row : DRow) (b : Byte) :
    (l.transition p row b).link.withinCap p = true := by
  cases row with
  | nEnd => exact withinCap_of_buf_nil rfl
  | nEsc => exact withinCap_of_buf_eq rfl h
  | nData => exact bufAppend_withinCap h b b
  | eEscEnd => exact bufAppend_withinCap (withinCap_of_buf_eq (l.setMode_buf .normal) h) END ESC_END
  | eEscEsc => exact bufAppend_withinCap (withinCap_of_buf_eq (l.setMode_buf .normal) h) ESC ESC_ESC
  | eBad => exact withinCap_of_buf_nil rfl

theorem Link.rxByteDrawn_withinCap {p : Params} {l : Link} (h : l.withinCap p = true) (f : Draw) (b : Byte) :
    (l.rxByteDrawn p f b).withinCap p = true := by
  cases f with
  | none => exact transition_withinCap h _ b
  | before => exact withinCap_of_buf_nil rfl
  | after =>
    simp only [Link.rxByteDrawn]
    split
    · exact transition_withinCap h _ b
    · exact withinCap_of_buf_nil rfl

theorem Link.runs_withinCap {p : Params} {k : Nat} {i : Instr} {l l' : Link} (hl : l.withinCap p = true)
    (h : Link.runs p k i l = .ok l') : l'.withinCap p = true := by
  cases ha : Agent.of i with
  | rx =>
    obtain ⟨_, rfl⟩ | ⟨b, _, rfl⟩ | ⟨b, _, rfl⟩ := Link.runs_rx_cases ha h
    · exact withinCap_of_buf_nil rfl
    · exact rxByteDrawn_withinCap (withinCap_of_buf_eq (l.countDraw_buf p) hl) _ b
    · exact transition_withinCap hl _ b
  | tx =>
    obtain ⟨d, _, rfl⟩ | ⟨_, out, rfl⟩ := Link.runs_tx_cases ha h
    · exact withinCap_of_buf_eq rfl hl
    · exact withinCap_of_buf_eq rfl hl

end Sys2Proof.Machine
end

section
/-! ## What a step can do to the links -/

namespace Sys2Proof.Machine

/-- What one step can make of link `k`: its outputs are wired otherwise (or as before), or an operation runs on it. -/
def Link.StepsTo (p : Params) (k : Nat) (l l' : Link) : Prop :=
  (∃ w, l' = { l with wiring := w }) ∨ ∃ i, Link.runs p k i l = .ok l'

theorem Link.StepsTo.refl (p : Params) (k : Nat) (l : Link) : l.StepsTo p k l := .inl ⟨l.wiring, rfl⟩

theorem Link.StepsTo.appends {p : Params} {k : Nat} {l l' : Link} (h : l.StepsTo p k l') : l.Appends 2 l' := by
  obtain ⟨w, rfl⟩ | ⟨i, hi⟩ := h
  · exact .of_trace_eq rfl 2
  · exact Link.runs_appends hi

theorem Link.StepsTo.withinCap {p : Params} {k : Nat} {l l' : Link} (h : l.StepsTo p k l')
    (hl : l.withinCap p = true) : l'.withinCap p = true := by
  obtain ⟨w, rfl⟩ | ⟨i, hi⟩ := h
  · exact withinCap_of_buf_eq rfl hl
  · exact Link.runs_withinCap hl hi

/-- A link in order stays in order: its buffer fits and the records it gains are legal. -/
theorem Link.StepsTo.inv {p : Params} {k : Nat} {l l' : Link} (h : l.StepsTo p k l') (hl : l.inv p = true) :
    l'.inv p = true := by
  obtain ⟨rs, htrace, _, hlegal⟩ := h.appends
  simp only [Link.inv, Bool.and_eq_true] at hl ⊢
  obtain ⟨hcap, hold⟩ := hl
  exact ⟨h.withinCap hcap, by rw [htrace, List.all_append, hold, hlegal]; rfl⟩

/-- Putting back one link that makes a step: each link makes one, the others by staying as they are. -/
theorem State.setLink_stepsTo {s : State} {k : Nat} {l l' : Link} (hl : s.links[k]? = some l)
    (h : l.StepsTo s.params k l') {j : Nat} {m : Link} (hm : s.links[j]? = some m) :
    ∃ m', (s.setLink k l').links[j]? = some m' ∧ m.StepsTo s.params j m' := by
  by_cases hj : j = k
  · subst hj
    obtain rfl : l = m := by simpa using hl.symm.trans hm
    exact ⟨l', s.setLink_same j l l' hl, h⟩
  · exact ⟨m, (s.setLink_other k j l' hj).trans hm, .refl ..⟩

/-- Everything a step can do to the parameters and the links. -/
theorem step_next {s t : State} (h : step s = .next t) :
    t.params = s.params ∧ t.nLinks = s.nLinks ∧
      ∀ (k : Nat) (l : Link), s.links[k]? = some l → ∃ l', t.links[k]? = some l' ∧ l.StepsTo s.params k l' := by
  unfold step at h
  obtain hf | ⟨i, host, k, hf⟩ | ⟨host, hf⟩ | ⟨host, k, l, port, hl, hf⟩ | ⟨r, hf⟩ := s.fetch_cases
    <;> rw [hf] at h
  · cases h
    exact ⟨rfl, rfl, fun _ l hl => ⟨l, hl, .refl ..⟩⟩
  · obtain ⟨l, l', ⟨hl, _⟩, hr, rfl⟩ := exec_next.mp h
    exact ⟨rfl, State.setLink_nLinks .., fun _ _ hm => State.setLink_stepsTo hl (.inr ⟨i, hr⟩) hm⟩
  · cases h
    exact ⟨rfl, rfl, fun _ l hl => ⟨l, hl, .refl ..⟩⟩
  · cases h
    exact ⟨rfl, State.setLink_nLinks .., fun _ _ hm => State.setLink_stepsTo hl (.inl ⟨_, rfl⟩) hm⟩
  · cases h

/-- The system in order, said of the links by their index. -/
theorem State.inv_iff {s : State} :
    s.inv = true ↔ s.params.wf = true ∧ 1 ≤ s.nLinks ∧
      ∀ (k : Nat) (l : Link), s.links[k]? = some l → l.inv s.params = true := by
  simp only [State.inv, State.nLinks, Bool.and_eq_true, List.all_eq_true, List.mem_iff_getElem?, and_assoc]
  simp [Nat.one_le_iff_ne_zero, forall_comm (α := Link)]

/-- Settles O59: a step keeps the parameters and the number of links, and each link makes a step that keeps it in
order. -/
theorem stepKeepsTheInvariant : Obligations.StepKeepsTheInvariant := by
  intro s t hs h
  obtain ⟨hparams, hlen, hlinks⟩ := step_next h
  obtain ⟨hwf, hpos, hinv⟩ := State.inv_iff.mp hs
  refine State.inv_iff.mpr ⟨hparams ▸ hwf, hlen ▸ hpos, fun k l' hl' => ?_⟩
  have hk : k < s.nLinks := hlen ▸ (List.getElem?_eq_some_iff.mp hl').1
  obtain ⟨m, hm, hstep⟩ := hlinks k _ (List.getElem?_eq_getElem hk)
  obtain rfl : l' = m := by simpa using hl'.symm.trans hm
  exact hparams ▸ hstep.inv (hinv k _ (List.getElem?_eq_getElem hk))

/-- Settles O35: each link makes a step, and that adds at most two records. -/
theorem stepOnlyAppendsToTraces : Obligations.StepOnlyAppendsToTraces := by
  intro s t h k l hl
  obtain ⟨_, _, hlinks⟩ := step_next h
  obtain ⟨l', hl', hstep⟩ := hlinks k l hl
  obtain ⟨rs, htrace, hlen, _⟩ := hstep.appends
  exact ⟨l', rs, hl', htrace, hlen⟩

end Sys2Proof.Machine
end

section
/-! ## What one operation reads and writes -/

namespace Sys2Proof.Machine

/-- Settles O32: an operation puts back the selected link and nothing else. -/
theorem operationTouchesOnlyItsInstance : Obligations.OperationTouchesOnlyItsInstance := by
  intro i s t h
  obtain ⟨l, l', _, _, rfl⟩ := exec_next.mp h
  exact ⟨rfl, s.setLink_nLinks s.sel l', rfl, rfl, fun k hk => s.setLink_other s.sel k l' hk⟩

/-- Settles O56: `Link.runs` sees the parameters, the index and the selected link only. -/
theorem otherInstancesCannotBeSeen : Obligations.OtherInstancesCannotBeSeen := by
  intro i s u t hparams hsel hlink h
  obtain ⟨l, l', ⟨hl, hw⟩, hr, rfl⟩ := exec_next.mp h
  have hu : u.ready l := ⟨hlink.symm.trans hl, hw⟩
  rw [hparams, hsel] at hr
  refine ⟨u.setLink u.sel l', exec_of_runs hu hr, ?_⟩
  rw [u.setLink_same u.sel l l' hu.1, s.setLink_same s.sel l l' hl]

theorem Link.rxOut_txWrite (l : Link) (f : List Byte) : (l.txWrite f).rxOut = l.rxOut := by
  simp [Link.rxOut]

theorem Link.evOut_txWrite (l : Link) (f : List Byte) : (l.txWrite f).evOut = l.evOut := by
  simp [Link.evOut]

/-- Settles O34: an operation of the TX agent writes one frame on tx_out, or adds to the substitution outputs. -/
theorem txOperationsLeaveTheDecoder : Obligations.TxOperationsLeaveTheDecoder := by
  intro i s t l hready ha h
  obtain ⟨l', hr, rfl⟩ := exec_next_at hready h
  refine ⟨l', rfl, ?_⟩
  obtain ⟨d, _, rfl⟩ | ⟨_, out, rfl⟩ := Link.runs_tx_cases ha hr
  · exact ⟨rfl, rfl, l.rxOut_txWrite _, l.evOut_txWrite _, rfl, rfl, .inl ⟨⟨_, rfl⟩, rfl⟩⟩
  · exact ⟨rfl, rfl, rfl, rfl, rfl, rfl, .inr rfl⟩

end Sys2Proof.Machine
end

section
/-! ## The mode (10_state R28 (I2)) -/

namespace Sys2Proof.Machine

/-- BufAppend leaves NORMAL as it is, also by the recovery from an overflow. -/
theorem Link.bufAppend_normal (p : Params) {l : Link} (h : l.mode = .normal) (data rx : Byte) :
    (l.bufAppend p data rx).link.mode = .normal := by
  rw [Link.bufAppend_link]
  split
  · rfl
  · exact h

/-- The transition of any byte leaves NORMAL, but for that of ESC in NORMAL, which writes the mode alone (40_decoder
R95). -/
theorem Link.transition_mode_cases (p : Params) (l : Link) (b : Byte) :
    (l.mode = .normal ∧ b = ESC ∧ (l.transition p (l.rowFor b) b).link = l.setMode .escaped) ∨
      (l.transition p (l.rowFor b) b).link.mode = .normal := by
  cases hm : l.mode with
  | normal =>
    rw [Link.rowFor_normal hm]
    by_cases hEnd : b = END
    · exact .inr (by simp [hEnd, Link.transition, Link.transNEnd])
    · by_cases hEsc : b = ESC
      · exact .inl ⟨rfl, hEsc, by simp [hEsc, Link.transition, Link.transNEsc]⟩
      · right
        rw [if_neg hEnd, if_neg hEsc]
        exact Link.bufAppend_normal p hm b b
  | escaped =>
    right
    rw [Link.rowFor_escaped hm]
    split
    · exact Link.bufAppend_normal p (l.setMode_mode .normal) END ESC_END
    · split
      · exact Link.bufAppend_normal p (l.setMode_mode .normal) ESC ESC_ESC
      · rfl

/-- RX_BYTE leaves NORMAL, but for ESC in NORMAL, which may leave ESCAPED with the buffer as it was; a spontaneous fault
leaves NORMAL (60_exceptions R146). -/
theorem Link.rxByteDrawn_mode_cases (p : Params) (f : Draw) (l : Link) (b : Byte) :
    (l.mode = .normal ∧ b = ESC ∧ (l.rxByteDrawn p f b).buf = l.buf) ∨ (l.rxByteDrawn p f b).mode = .normal := by
  have htrans :
      (l.mode = .normal ∧ b = ESC ∧ (l.transition p (l.rowFor b) b).link.buf = l.buf) ∨
        (l.transition p (l.rowFor b) b).link.mode = .normal :=
    (l.transition_mode_cases p b).imp_left fun ⟨hm, hb, hlink⟩ => ⟨hm, hb, by rw [hlink, Link.setMode_buf]⟩
  cases f with
  | none => exact htrans
  | before => exact .inr rfl
  | after =>
    simp only [Link.rxByteDrawn]
    split
    · exact htrans
    · exact .inr rfl

theorem Link.rxByte_mode_cases (p : Params) (k : Nat) (l : Link) (b : Byte) :
    (l.mode = .normal ∧ b = ESC ∧ (l.rxByte p k b).buf = l.buf) ∨ (l.rxByte p k b).mode = .normal := by
  simpa [Link.rxByte] using (l.countDraw p).rxByteDrawn_mode_cases p (l.faultDraw p k) b

/-- Every operation of the RX agent leaves NORMAL, but for the two that run ESC in NORMAL. -/
theorem Link.runs_rx_mode_cases {p : Params} {k : Nat} {i : Instr} {l l' : Link} (ha : Agent.of i = .rx)
    (h : Link.runs p k i l = .ok l') :
    (l.mode = .normal ∧ (i = .rxByte ESC ∨ i = .dNEsc) ∧ l'.buf = l.buf) ∨ l'.mode = .normal := by
  obtain ⟨_, rfl⟩ | ⟨b, rfl, rfl⟩ | ⟨b, rfl, rfl⟩ := Link.runs_rx_cases ha h
  · exact .inr rfl
  · exact (l.rxByte_mode_cases p k b).imp_left fun ⟨hm, hb, hbuf⟩ => ⟨hm, .inl (hb ▸ rfl), hbuf⟩
  · refine (l.transition_mode_cases p b).imp_left fun ⟨hm, hb, hlink⟩ =>
      ⟨hm, .inr ?_, by rw [hlink, Link.setMode_buf]⟩
    subst hb
    rw [hm, decodeKey_normal]
    rfl

/-- Settles O36: an RX operation leaves NORMAL unless it runs ESC in NORMAL. -/
theorem escapedLastsExactlyOneByte : Obligations.EscapedLastsExactlyOneByte := by
  intro i s t l hready ha h
  obtain ⟨l', hr, rfl⟩ := exec_next_at hready h
  refine ⟨l', s.setLink_same s.sel l l' hready.1, ?_⟩
  obtain ⟨hm, hi, hbuf⟩ | hm' := Link.runs_rx_mode_cases ha hr
  · exact ⟨by simp [hm], fun _ => ⟨hm, hi, hbuf⟩⟩
  · exact ⟨fun _ => hm', by simp [hm']⟩

end Sys2Proof.Machine
end

section
/-! ## Payloads read from a stream (10_state R38) -/

namespace Sys2Proof.Machine

/-- Splitting a stream in two (40_decoder R92). -/
theorem Link.decodeStream_append (p : Params) (k : Nat) (l : Link) (as bs : List Byte) :
    l.decodeStream p k (as ++ bs) = (l.decodeStream p k as).decodeStream p k bs :=
  List.foldl_append

section
variable {p : Params} (hp : p.admitSpontaneousFault = false) (k : Nat)
include hp

/-- ESC in NORMAL writes the mode alone (40_decoder R82). -/
theorem Link.rxByte_esc_normal {l : Link} (hm : l.mode = .normal) :
    l.rxByte p k ESC = l.setMode .escaped := by
  rw [Link.rxByte_plain hp, Link.rowFor_normal hm]
  rfl

/-- A byte other than END and ESC is appended in NORMAL where there is room (40_decoder R83). -/
theorem Link.rxByte_data_normal {l : Link} {b : Byte} (hm : l.mode = .normal) (hEnd : b ≠ END) (hEsc : b ≠ ESC)
    (hroom : p.bufCap ≠ some l.buf.length) : l.rxByte p k b = { l with buf := l.buf ++ [b] } := by
  rw [Link.rxByte_plain hp, Link.rowFor_normal hm, if_neg hEnd, if_neg hEsc, Link.transition, Link.transNData,
    Link.bufAppend_room hroom]

/-- ESC_END in ESCAPED appends a literal END where there is room (40_decoder R84). -/
theorem Link.rxByte_escEnd_escaped {l : Link} (hm : l.mode = .escaped) (hroom : p.bufCap ≠ some l.buf.length) :
    l.rxByte p k ESC_END = { l with mode := .normal, buf := l.buf ++ [END] } := by
  rw [Link.rxByte_plain hp, Link.rowFor_escaped hm, if_pos rfl, Link.transition, Link.transEEscEnd_link, if_neg hroom]

/-- ESC_ESC in ESCAPED appends a literal ESC where there is room (40_decoder R85). -/
theorem Link.rxByte_escEsc_escaped {l : Link} (hm : l.mode = .escaped) (hroom : p.bufCap ≠ some l.buf.length) :
    l.rxByte p k ESC_ESC = { l with mode := .normal, buf := l.buf ++ [ESC] } := by
  rw [Link.rxByte_plain hp, Link.rowFor_escaped hm, if_neg escEsc_ne_escEnd, if_pos rfl, Link.transition,
    Link.transEEscEsc_link, if_neg hroom]

/-- The substitution of a byte, read in NORMAL, appends that byte where there is room. -/
theorem Link.decodeStream_sub {l : Link} (hm : l.mode = .normal) (hroom : p.bufCap ≠ some l.buf.length) (b : Byte) :
    l.decodeStream p k (sub b) = { l with buf := l.buf ++ [b] } := by
  by_cases hEnd : b = END
  · subst hEnd
    rw [sub_eq, if_pos rfl, Link.decodeStream_cons, Link.rxByte_esc_normal hp k hm,
      Link.decodeStream_cons, Link.rxByte_escEnd_escaped hp k (l.setMode_mode .escaped) hroom, ← hm]
    rfl
  · by_cases hEsc : b = ESC
    · subst hEsc
      rw [sub_eq, if_neg esc_ne_end, if_pos rfl, Link.decodeStream_cons, Link.rxByte_esc_normal hp k hm,
        Link.decodeStream_cons, Link.rxByte_escEsc_escaped hp k (l.setMode_mode .escaped) hroom, ← hm]
      rfl
    · rw [sub_eq, if_neg hEnd, if_neg hEsc, Link.decodeStream_cons, Link.rxByte_data_normal hp k hm hEnd hEsc hroom,
        Link.decodeStream_nil]

/-- The payload of a datagram that fits, read in NORMAL, appends the datagram and records nothing. -/
theorem Link.decodeStream_onePass {l : Link} (hm : l.mode = .normal) (d : List Byte)
    (hfit : ∀ c, p.bufCap = some c → l.buf.length + d.length ≤ c) :
    l.decodeStream p k (onePass d) = { l with buf := l.buf ++ d } := by
  induction d generalizing l with
  | nil => simp [onePass]
  | cons b d ih =>
    have hroom : p.bufCap ≠ some l.buf.length := fun hc => by
      have := hfit _ hc
      simp at this
    have hfit' : ∀ c, p.bufCap = some c → (l.buf ++ [b]).length + d.length ≤ c := fun c hc => by
      have := hfit c hc
      simp only [List.length_append, List.length_cons, List.length_nil] at this ⊢
      omega
    rw [onePass, List.flatMap_cons, Link.decodeStream_append, Link.decodeStream_sub hp k hm hroom, ← onePass,
      ih (l := { l with buf := l.buf ++ [b] }) hm hfit']
    simp

end

/-- Settles O51: the payload of the buffer wanted leads there in NORMAL, and an ESC after it to ESCAPED. -/
theorem everyDecoderStateIsReachable : Obligations.EveryDecoderStateIsReachable := by
  intro p k l m bytes hp hfit hm hbuf
  have hpayload : l.decodeStream p k (onePass bytes) = { l with buf := bytes } := by
    rw [Link.decodeStream_onePass hp k hm bytes (by simpa [hbuf] using hfit), hbuf, List.nil_append]
  cases m with
  | normal => exact ⟨onePass bytes, by rw [hpayload, ← hm]⟩
  | escaped =>
    refine ⟨onePass bytes ++ [ESC], ?_⟩
    rw [Link.decodeStream_append, hpayload, Link.decodeStream_cons, Link.decodeStream_nil]
    exact Link.rxByte_esc_normal hp k hm

end Sys2Proof.Machine
end

section
/-! ## The state at creation and after RESET (10_state R29) -/

namespace Sys2Proof.Machine

/-- Every link of a system just built is one at its creation. -/
theorem State.mem_built_links {p : Params} {n : Nat} {w : Wiring} {l : Link} (h : l ∈ (State.built p n w).links) :
    l = Link.created w :=
  List.eq_of_mem_replicate h

@[simp] theorem State.built_nLinks (p : Params) (n : Nat) (w : Wiring) : (State.built p n w).nLinks = n :=
  List.length_replicate

theorem Link.created_inv (p : Params) (w : Wiring) : (Link.created w).inv p = true := by
  rw [Link.inv, withinCap_of_buf_nil rfl]
  rfl

theorem State.built_inv {p : Params} {n : Nat} (w : Wiring) (hp : p.wf = true) (hn : 1 ≤ n) :
    (State.built p n w).inv = true := by
  refine State.inv_iff.mpr ⟨hp, by simpa using hn, fun k l hl => ?_⟩
  rw [State.mem_built_links (List.mem_of_getElem? hl)]
  exact Link.created_inv p w

/-- Settles O57: every link is created clean, and RESET puts the clean link back. -/
theorem resetStateIsClean : Obligations.ResetStateIsClean := by
  have hbuilt (p : Params) (n : Nat) (w : Wiring) :
      ∀ l ∈ (State.built p n w).links, l.mode = .normal ∧ l.buf = [] := fun l hl => by
    rw [State.mem_built_links hl]
    exact ⟨rfl, rfl⟩
  refine ⟨fun p n w => ⟨State.built_nLinks p n w, hbuilt p n w⟩, hbuilt _ _ _, fun s t h => ?_⟩
  obtain ⟨l, l', ⟨hl, _⟩, hr, rfl⟩ := exec_next.mp h
  cases hr
  exact ⟨l.clean, s.setLink_same s.sel l l.clean hl, l.clean_mode, l.clean_buf⟩

/-- Settles O58: every link is created in order, and State.reset is a system just built with the source's parameters. -/
theorem invariantHoldsWhenBuilt : Obligations.InvariantHoldsWhenBuilt :=
  ⟨fun _ _ w hp hn => State.built_inv w hp hn, State.built_inv Wiring.all (by decide) (by decide)⟩

end Sys2Proof.Machine
end

section
/-! ## Frames on tx_out (20_memory R47, R53) -/

namespace Sys2Proof.Machine

@[simp] theorem Link.txOut_txWrite (l : Link) (f : List Byte) : (l.txWrite f).txOut = l.txOut ++ [f] := by
  simp [Link.txOut]

theorem Link.txOut_of_trace_eq {l l' : Link} (h : l'.trace = l.trace) : l'.txOut = l.txOut := by
  rw [Link.txOut, h, Link.txOut]

/-- A datagram delivered is no record of tx_out. -/
theorem Link.txOut_of_emit {l l' : Link} {d : List Byte} (h : l'.trace = l.trace ++ [.emit d]) :
    l'.txOut = l.txOut := by
  simp [Link.txOut, h]

/-- An event is no record of tx_out. -/
theorem Link.txOut_of_ev {l l' : Link} {e : Event} (h : l'.trace = l.trace ++ [.ev e]) : l'.txOut = l.txOut := by
  simp [Link.txOut, h]

/-- An instance put back with its wiring as it was is ready for the next operation. -/
theorem State.setLink_ready {s : State} {l l' : Link} (h : s.ready l) (hw : l'.wiring = l.wiring) :
    (s.setLink s.sel l').ready l' :=
  ⟨s.setLink_same s.sel l l' h.1, hw ▸ h.2⟩

/-- With MAX_TX_LEN unbounded every TX_DATAGRAM runs (41_encoder R117). -/
theorem Link.runs_txDatagram {p : Params} (hp : p.maxTxLen = none) (k : Nat) (d : List Byte) (l : Link) :
    Link.runs p k (.txDatagram d) l = .ok (l.txWrite (encodeFrame d)) := by
  simp [Link.runs, txTooLong, hp]

/-- Settles O46: each TX_DATAGRAM writes its frame on tx_out and leaves the instance ready for the next. -/
theorem framesStandWholeAndInOrder : Obligations.FramesStandWholeAndInOrder := by
  intro s l d e h hp
  have ht := State.setLink_ready h (l.txWrite_wiring (encodeFrame d))
  refine ⟨_, _, _, exec_of_runs h (Link.runs_txDatagram hp ..), exec_of_runs ht (Link.runs_txDatagram hp ..),
    State.setLink_same _ _ _ _ ht.1, ?_⟩
  simp

end Sys2Proof.Machine
end

section
/-! ## The frame of the RX agent (20_memory R53) -/

namespace Sys2Proof.Machine

/-- A transition records no frame. -/
theorem Link.transition_txOut (p : Params) (l : Link) (row : DRow) (b : Byte) :
    (l.transition p row b).link.txOut = l.txOut := by
  obtain ⟨_, _, _, e, htrace⟩ | ⟨_, htrace | ⟨_, _, _, htrace⟩⟩ := l.transition_records p row b
  · exact txOut_of_ev htrace
  · exact txOut_of_trace_eq htrace
  · exact txOut_of_emit htrace

theorem Link.raiseInternal_txOut (l : Link) (c : Cause) (b : Byte) : (l.raiseInternal c b).txOut = l.txOut :=
  txOut_of_ev (l.raiseInternal_trace c b)

theorem Link.rxByteDrawn_txOut (p : Params) (f : Draw) (l : Link) (b : Byte) :
    (l.rxByteDrawn p f b).txOut = l.txOut := by
  have htrans := l.transition_txOut p (l.rowFor b) b
  cases f with
  | none => exact htrans
  | before => exact l.raiseInternal_txOut .spontaneous b
  | after =>
    simp only [Link.rxByteDrawn]
    split
    · exact htrans
    · exact (Link.raiseInternal_txOut _ .spontaneous b).trans htrans

theorem Link.rxByte_txOut (p : Params) (k : Nat) (l : Link) (b : Byte) : (l.rxByte p k b).txOut = l.txOut :=
  (Link.rxByteDrawn_txOut ..).trans (txOut_of_trace_eq (l.countDraw_trace p))

/-- An operation of the RX agent leaves tx_out, the substitution outputs and the wiring, and only an RX_BYTE that draws
moves the draw counter. -/
theorem Link.runs_rx_frame {p : Params} {k : Nat} {i : Instr} {l l' : Link} (ha : Agent.of i = .rx)
    (h : Link.runs p k i l = .ok l') :
    l'.txOut = l.txOut ∧ l'.subTrace = l.subTrace ∧ l'.wiring = l.wiring ∧
      ((∀ b, i ≠ .rxByte b) ∨ p.admitSpontaneousFault = false → l'.draws = l.draws) := by
  obtain ⟨_, rfl⟩ | ⟨b, rfl, rfl⟩ | ⟨b, _, rfl⟩ := Link.runs_rx_cases ha h
  · exact ⟨rfl, rfl, rfl, fun _ => rfl⟩
  · obtain ⟨hw, hsub, hdraws⟩ := l.rxByte_frame p k b
    refine ⟨l.rxByte_txOut p k b, hsub, hw, ?_⟩
    rintro (hne | hp)
    · exact absurd rfl (hne b)
    · simp [hdraws, hp]
  · obtain ⟨hw, hdraws, hsub⟩ := l.transition_frame p (l.rowFor b) b
    exact ⟨l.transition_txOut p _ b, hsub, hw, fun _ => hdraws⟩

/-- Settles O33: an operation puts back the selected instance as `Link.runs` says, and that is the RX agent's frame. -/
theorem rxOperationsLeaveTheTxAgent : Obligations.RxOperationsLeaveTheTxAgent := by
  intro i s t l hready ha h
  obtain ⟨l', hr, rfl⟩ := exec_next_at hready h
  exact ⟨l', rfl, Link.runs_rx_frame ha hr⟩

end Sys2Proof.Machine
end

section
/-! ## What the RX agent sees of an instance

The decoder's state, the RX records and the wiring. Every RX operation commutes with `Link.rxView`, so that TX records and
substitution outputs cannot change what it does (20_memory R52, R53). -/

namespace Sys2Proof.Machine

/-- The instance without what the TX agent records. -/
def Link.rxView (l : Link) : Link := { l with trace := l.rxRecords, subTrace := [] }

theorem Link.rxView_eq_iff {l m : Link} :
    l.rxView = m.rxView ↔
      l.mode = m.mode ∧ l.buf = m.buf ∧ l.rxRecords = m.rxRecords ∧ l.wiring = m.wiring ∧ l.draws = m.draws := by
  simp [Link.rxView]

/-- The view of what a transition leaves. -/
def Stepped.rxView (r : Stepped) : Stepped := { r with link := r.link.rxView }

theorem Link.rxView_setMode (l : Link) (m : Mode) : (l.setMode m).rxView = l.rxView.setMode m := rfl

theorem Link.rxView_bufClear (l : Link) : l.bufClear.rxView = l.rxView.bufClear := rfl

theorem Link.rxView_emit (l : Link) (d : List Byte) : (l.emit d).rxView = l.rxView.emit d := by
  simp [Link.rxView, Link.rxRecords, Link.emit, Link.record]

theorem Link.rxView_report (l : Link) (e : Event) : (l.report e).rxView = l.rxView.report e := by
  simp [Link.rxView, Link.rxRecords, Link.report, Link.record]

theorem Link.rxView_raiseMalformed (l : Link) (b : Byte) : (l.raiseMalformed b).rxView = l.rxView.raiseMalformed b :=
  l.clean.rxView_report _

theorem Link.rxView_raiseInternal (l : Link) (c : Cause) (b : Byte) :
    (l.raiseInternal c b).rxView = l.rxView.raiseInternal c b :=
  l.clean.rxView_report _

theorem Link.rxView_countDraw (p : Params) (l : Link) : (l.countDraw p).rxView = l.rxView.countDraw p := by
  unfold Link.countDraw
  split <;> rfl

theorem Link.rxView_bufAppend (p : Params) (l : Link) (data rx : Byte) :
    (l.bufAppend p data rx).rxView = l.rxView.bufAppend p data rx := by
  by_cases hfull : p.bufCap = some l.buf.length
  · rw [Link.bufAppend_full hfull, Link.bufAppend_full (l := l.rxView) hfull, ← Link.rxView_raiseInternal]
    rfl
  · rw [Link.bufAppend_room hfull, Link.bufAppend_room (l := l.rxView) hfull]
    rfl

theorem Link.rxView_transNEnd (l : Link) : l.transNEnd.rxView = l.rxView.transNEnd := by
  have hbuf : l.rxView.buf = l.buf := rfl
  simp only [Link.transNEnd, Stepped.rxView, Link.rxView_setMode, Link.rxView_bufClear, hbuf]
  split
  · rw [Link.rxView_emit]; rfl
  · rfl

theorem Link.rxView_transition (p : Params) (l : Link) (row : DRow) (b : Byte) :
    (l.transition p row b).rxView = l.rxView.transition p row b := by
  cases row with
  | nEnd => exact l.rxView_transNEnd
  | nEsc => rfl
  | nData => exact l.rxView_bufAppend p b b
  | eEscEnd => exact (l.setMode .normal).rxView_bufAppend p END ESC_END
  | eEscEsc => exact (l.setMode .normal).rxView_bufAppend p ESC ESC_ESC
  | eBad => exact congrArg (Stepped.mk · true) (l.rxView_raiseMalformed b)

theorem Link.rxView_rxByteDrawn (p : Params) (f : Draw) (l : Link) (b : Byte) :
    (l.rxByteDrawn p f b).rxView = l.rxView.rxByteDrawn p f b := by
  have htrans : l.rxView.transition p (l.rxView.rowFor b) b = (l.transition p (l.rowFor b) b).rxView :=
    (l.rxView_transition p (l.rowFor b) b).symm
  cases f with
  | none => exact (congrArg Stepped.link htrans).symm
  | before => exact l.rxView_raiseInternal .spontaneous b
  | after =>
    simp only [Link.rxByteDrawn, htrans, Stepped.rxView]
    split
    · rfl
    · exact Link.rxView_raiseInternal _ .spontaneous b

theorem Link.rxView_rxByte (p : Params) (k : Nat) (l : Link) (b : Byte) :
    (l.rxByte p k b).rxView = l.rxView.rxByte p k b := by
  rw [Link.rxByte, Link.rxView_rxByteDrawn, Link.rxView_countDraw]
  rfl

/-- A row is selected, and does the same, in the instance and in its view. -/
theorem Link.onDRow_rxView (p : Params) (l : Link) (row : DRow) (b : Byte) :
    l.rxView.onDRow row b (·.transition p row b) = (l.onDRow row b (·.transition p row b)).map Link.rxView := by
  have hrow : l.rxView.rowFor b = l.rowFor b := rfl
  simp only [Link.onDRow, hrow, ← Link.rxView_transition]
  split <;> rfl

/-- An RX operation does to the view of an instance what it does to the instance. -/
theorem Link.runs_rxView {i : Instr} (ha : Agent.of i = .rx) (p : Params) (k : Nat) (l : Link) :
    Link.runs p k i l.rxView = (Link.runs p k i l).map Link.rxView := by
  cases i with
  | reset => rfl
  | rxByte b => exact congrArg Except.ok (l.rxView_rxByte p k b).symm
  | dNEnd => exact l.onDRow_rxView p .nEnd END
  | dNEsc => exact l.onDRow_rxView p .nEsc ESC
  | dNData b => exact l.onDRow_rxView p .nData b
  | dEEscEnd => exact l.onDRow_rxView p .eEscEnd ESC_END
  | dEEscEsc => exact l.onDRow_rxView p .eEscEsc ESC_ESC
  | dEBad b => exact l.onDRow_rxView p .eBad b
  | txDatagram _ => cases ha
  | eEnd => cases ha
  | eEsc => cases ha
  | eLit _ => cases ha

/-- Two instances of one view: an RX operation that completes on the one completes on the other, and what it leaves has one
view again. -/
theorem Link.runs_of_rxView_eq {p : Params} {k : Nat} {i : Instr} {l l' m : Link} (ha : Agent.of i = .rx)
    (hview : m.rxView = l.rxView) (h : Link.runs p k i l = .ok l') :
    ∃ m', Link.runs p k i m = .ok m' ∧ m'.rxView = l'.rxView := by
  have hm : (Link.runs p k i m).map Link.rxView = .ok l'.rxView := by
    rw [← Link.runs_rxView ha, hview, Link.runs_rxView ha, h]
    rfl
  cases hr : Link.runs p k i m with
  | error r => rw [hr] at hm; cases hm
  | ok m' => rw [hr] at hm; exact ⟨m', rfl, Except.ok.inj hm⟩

end Sys2Proof.Machine
end

section
/-! ## What a TX operation adds, whatever the instance (10_state R24) -/

namespace Sys2Proof.Machine

/-- The instance after frames `fs` on tx_out and bytes `out` on the substitution outputs. -/
def Link.sends (l : Link) (fs : List (List Byte)) (out : List Byte) : Link :=
  { l with trace := l.trace ++ fs.map .tx, subTrace := l.subTrace ++ out }

theorem Link.sends_txOut (l : Link) (fs : List (List Byte)) (out : List Byte) :
    (l.sends fs out).txOut = l.txOut ++ fs := by
  simp [Link.sends, Link.txOut, List.filterMap_map]

/-- The RX agent does not see what the TX agent records. -/
theorem Link.sends_rxView (l : Link) (fs : List (List Byte)) (out : List Byte) :
    (l.sends fs out).rxView = l.rxView := by
  simp [Link.rxView, Link.rxRecords, Link.sends, List.filter_map, Function.comp_def]

/-- A substitution that runs on one instance runs on every instance, with the same output. -/
theorem Link.onERow_sends {l l' : Link} {row : ERow} {b : Byte} {out : List Byte} (h : l.onERow row b out = .ok l')
    (m : Link) : m.onERow row b out = .ok (m.sends [] out) :=
  onERow_ok.mpr ⟨(onERow_ok.mp h).1, by simp [Link.sends]⟩

/-- A TX operation that completes on one instance completes on every instance, and adds the same to each. -/
theorem Link.runs_tx_sends {p : Params} {k : Nat} {i : Instr} {l l' : Link} (ha : Agent.of i = .tx)
    (h : Link.runs p k i l = .ok l') : ∃ fs out, ∀ m, Link.runs p k i m = .ok (m.sends fs out) := by
  cases i with
  | txDatagram d =>
    refine ⟨[encodeFrame d], [], fun m => ?_⟩
    by_cases hlen : txTooLong p d = true
    · simp [Link.runs, hlen] at h
    · simp [Link.runs, hlen, Link.sends, Link.txWrite, Link.record]
  | eEnd => exact ⟨[], _, onERow_sends h⟩
  | eEsc => exact ⟨[], _, onERow_sends h⟩
  | eLit b => exact ⟨[], _, onERow_sends h⟩
  | _ => cases ha

end Sys2Proof.Machine
end

section
/-! ## Operations commute (20_memory R53, R54) -/

namespace Sys2Proof.Machine

/-- Settles O54: the TX operation adds the same to every instance, and the RX operation does not see what it added. -/
theorem rxAndTxOperationsCommute : Obligations.RxAndTxOperationsCommute := by
  intro i j s a c hi hj ha hc
  obtain ⟨l, l₁, hready, hrx, rfl⟩ := exec_next.mp ha
  obtain ⟨l₂, htx, rfl⟩ := exec_next_at hready hc
  obtain ⟨fs, out, hsends⟩ := Link.runs_tx_sends hj htx
  obtain rfl : l.sends fs out = l₂ := Except.ok.inj ((hsends l).symm.trans htx)
  obtain ⟨m, hm, hview⟩ := Link.runs_of_rxView_eq hi (l.sends_rxView fs out) hrx
  obtain ⟨htxOut₁, hsub₁, hwiring₁, _⟩ := Link.runs_rx_frame hi hrx
  obtain ⟨htxOut, hsub, _, _⟩ := Link.runs_rx_frame hi hm
  have hready₁ := State.setLink_ready hready hwiring₁
  have hready₂ : (s.setLink s.sel (l.sends fs out)).ready (l.sends fs out) := State.setLink_ready hready rfl
  obtain ⟨hmode, hbuf, hrecords, hwiring, hdraws⟩ :=
    Link.rxView_eq_iff.mp ((l₁.sends_rxView fs out).trans hview.symm)
  refine ⟨_, _, l₁.sends fs out, m, exec_of_runs hready₁ (hsends l₁), exec_of_runs hready₂ hm,
    State.setLink_same _ _ _ _ hready₁.1, State.setLink_same _ _ _ _ hready₂.1,
    hrecords, ?_, hmode, hbuf, hdraws, ?_, hwiring⟩
  · rw [Link.sends_txOut, htxOut₁, htxOut, Link.sends_txOut]
  · rw [hsub]
    exact congrArg (· ++ out) hsub₁

/-- An instance stays ready when another one is put back. -/
theorem State.setLink_ready_other {s : State} {x y : Nat} {m : Link} (l : Link) (hxy : y ≠ x)
    (h : { s with sel := y }.ready m) : { s.setLink x l with sel := y }.ready m :=
  ⟨(s.setLink_other x y l hxy).trans h.1, h.2⟩

/-- Settles O55: each operation puts back its own instance, and putting back two different ones commutes. -/
theorem operationsOfTwoInstancesCommute : Obligations.OperationsOfTwoInstancesCommute := by
  intro i j x y s a c hxy hi hj
  obtain ⟨l, l', hl, hi', rfl⟩ := exec_next.mp hi
  obtain ⟨m, m', hm, hj', rfl⟩ := exec_next.mp hj
  exact ⟨_, _, exec_of_runs (State.setLink_ready_other l' hxy.symm hm) hj',
    exec_of_runs (State.setLink_ready_other m' hxy hl) hi', List.set_comm l' m' hxy⟩

end Sys2Proof.Machine
end

section
/-! ## A driven operation (70_reset R188) -/

namespace Sys2Proof.Machine

/-- Settles O8: the request is a driven operation, and taking it gives the instruction that its word decodes to. -/
theorem stepRunsTheDecodedInstruction : Obligations.StepRunsTheDecodedInstruction := by
  intro s d rest i hhost hdecode
  rw [step, State.fetch_drive hhost, State.take_ok hdecode]

end Sys2Proof.Machine
end

section
/-! ## Command words and their fields (30_encoding R64, R65) -/

namespace Sys2Proof

/-- A command word is `op` above `data`, and no other bit. -/
theorem cmdWord_eq_iff (w : BitVec 10) (op : BitVec 2) (data : Byte) :
    w = op ++ data ↔ w.extractLsb' 8 2 = op ∧ w.extractLsb' 0 8 = data := by
  constructor
  · rintro rfl
    exact ⟨BitVec.extractLsb'_append_eq_left, BitVec.extractLsb'_append_eq_right⟩
  · rintro ⟨rfl, rfl⟩
    rw [BitVec.extractLsb'_append_extractLsb'_eq_extractLsb' (by decide), BitVec.extractLsb'_eq_self]

theorem resetWord_iff (w : BitVec 10) :
    w = 0x000#10 ↔ w.extractLsb' 8 2 = 0b00#2 ∧ w.extractLsb' 0 8 = 0x00#8 :=
  cmdWord_eq_iff w 0b00#2 0x00#8

theorem txWord_iff (w : BitVec 10) :
    w = 0x200#10 ↔ w.extractLsb' 8 2 = 0b10#2 ∧ w.extractLsb' 0 8 = 0x00#8 :=
  cmdWord_eq_iff w 0b10#2 0x00#8

/-- A word with the `op` of RX_BYTE is the word of its data byte. -/
theorem rxWord_cmdData {w : BitVec 10} (h : w.extractLsb' 8 2 = 0b01#2) : 0b01#2 ++ cmdData w = w :=
  ((cmdWord_eq_iff w _ _).mpr ⟨h, rfl⟩).symm

/-- RX_BYTE and TX_DATAGRAM differ in `op`. -/
theorem txWord_op_ne_rx {w : BitVec 10} (h : w = 0x200#10) : w.extractLsb' 8 2 ≠ 0b01#2 := by
  subst h; decide

/-- What a command word and its side operand decode to (30_encoding R65, log entry 13). -/
theorem decodeCmd_eq (w : BitVec 10) (d : List Byte) :
    decodeCmd w d =
      if w = 0x000#10 then (if d = [] then .ok .reset else .error (.strayOperand w))
      else if w.extractLsb' 8 2 = 0b01#2 then
        (if d = [] then .ok (.rxByte (cmdData w)) else .error (.strayOperand w))
      else if w = 0x200#10 then .ok (.txDatagram d)
      else .error (.reservedCommand w) := by
  rw [decodeCmd, firstHit_cmdTable]
  by_cases hReset : w = 0x000#10
  · simp [hReset]
  · by_cases hRx : w.extractLsb' 8 2 = 0b01#2
    · simp [hReset, hRx]
    · by_cases hTx : w = 0x200#10
      · simp [hTx]
      · simp [hReset, hRx, hTx]

/-- A command that decodes is the encoding of its instruction. -/
theorem encode_of_decodeCmd {w : BitVec 10} {d : List Byte} {i : Instr} (h : decodeCmd w d = .ok i) :
    encode i = .cmd w d := by
  rw [decodeCmd_eq] at h
  split at h
  case isTrue hReset =>
    split at h <;> cases h
    next hd => rw [hReset, hd, encode]
  case isFalse =>
    split at h
    case isTrue hRx =>
      split at h <;> cases h
      next hd => rw [hd, encode, rxWord_cmdData hRx]
    case isFalse =>
      split at h <;> cases h
      next hTx => rw [hTx, encode]

end Sys2Proof
end

section
/-! ## Encoding gives back what was decoded, and decoding what was encoded (30_encoding R64 to R67) -/

namespace Sys2Proof

/-- Every key is the encoding of its transition (30_encoding R66). -/
theorem encode_decodeKey (k : BitVec 9) : encode (decodeKey k) = .dkey k := by
  rw [← dKey_fields k]
  generalize keyByte k = b
  cases keyMode k with
  | normal =>
    rw [decodeKey_normal]
    split_ifs with hEnd hEsc
    · rw [hEnd, encode]
    · rw [hEsc, encode]
    · rfl
  | escaped =>
    rw [decodeKey_escaped]
    split_ifs with hEscEnd hEscEsc
    · rw [hEscEnd, encode]
    · rw [hEscEsc, encode]
    · rfl

/-- Every datagram byte is the encoding of its substitution (30_encoding R67). -/
theorem encode_decodeEByte (b : Byte) : encode (decodeEByte b) = .ebyte b := by
  rw [decodeEByte_eq]
  split_ifs with hEnd hEsc
  · rw [hEnd, encode]
  · rw [hEsc, encode]
  · rfl

/-- Settles O2: each of the three tables gives back the bits it read, and a stray decodes to nothing. -/
theorem encodeOfDecodeIsTheWord : Obligations.EncodeOfDecodeIsTheWord := by
  intro e i h
  cases e with
  | cmd w d => exact encode_of_decodeCmd h
  | dkey k => cases h; exact encode_decodeKey k
  | ebyte b => cases h; exact encode_decodeEByte b
  | stray nbits w => cases h

/-- The word of RX_BYTE `b` decodes to it (30_encoding R65). -/
theorem decodeCmd_rxWord (b : Byte) : decodeCmd (0b01#2 ++ b) [] = .ok (.rxByte b) := by
  rw [decodeCmd, firstHit_rxWord, cmdData_rxWord]
  rfl

/-- Settles O1: a row with a full mask has one word, and the byte of a well-formed default row selects no row above it. -/
theorem decodeOfEncodeIsTheInstruction : Obligations.DecodeOfEncodeIsTheInstruction := by
  intro i hwf
  cases i with
  | reset => rfl
  | rxByte b => exact decodeCmd_rxWord b
  | txDatagram d => rfl
  | dNEnd => rfl
  | dNEsc => rfl
  | dNData b =>
    obtain ⟨hEnd, hEsc⟩ : b ≠ END ∧ b ≠ ESC := by simpa [Instr.wf] using hwf
    rw [encode, decode, decodeKey_normal, if_neg hEnd, if_neg hEsc]
  | dEEscEnd => rfl
  | dEEscEsc => rfl
  | dEBad b =>
    obtain ⟨hEscEnd, hEscEsc⟩ : b ≠ ESC_END ∧ b ≠ ESC_ESC := by simpa [Instr.wf] using hwf
    rw [encode, decode, decodeKey_escaped, if_neg hEscEnd, if_neg hEscEsc]
  | eEnd => rfl
  | eEsc => rfl
  | eLit b =>
    obtain ⟨hEnd, hEsc⟩ : b ≠ END ∧ b ≠ ESC := by simpa [Instr.wf] using hwf
    rw [encode, decode, decodeEByte_eq, if_neg hEnd, if_neg hEsc]

end Sys2Proof
end

section
/-! ## Each frame is the image of exactly one datagram (30_encoding R61) -/

namespace Sys2Proof.Machine

theorem onePass_cons (b : Byte) (d : List Byte) : onePass (b :: d) = sub b ++ onePass d := List.flatMap_cons

/-- The two passes are the substitution byte by byte (41_encoder R113). -/
theorem passes_eq_onePass (d : List Byte) : pass2 (pass1 d) = onePass d := by
  induction d with
  | nil => rfl
  | cons b d ih =>
    rw [onePass_cons, sub_eq, ← ih]
    by_cases hEsc : b = ESC
    · subst hEsc
      rw [pass1_esc, pass2_other esc_ne_end, pass2_other escEsc_ne_end]
      rfl
    · rw [pass1_other hEsc]
      by_cases hEnd : b = END
      · subst hEnd
        rw [pass2_end]
        rfl
      · rw [pass2_other hEnd, if_neg hEnd, if_neg hEsc]
        rfl

theorem encodeFrame_eq_onePass (d : List Byte) : encodeFrame d = [END] ++ onePass d ++ [END] := by
  rw [encodeFrame, passes_eq_onePass]

/-- Every payload is the substitution of a datagram: each of its units is that of one byte. -/
theorem exists_onePass_of_payloadOk {p : List Byte} (h : payloadOk p = true) : ∃ d, onePass d = p := by
  fun_induction payloadOk p with
  | case1 => exact ⟨[], rfl⟩
  | case2 b =>
    obtain ⟨hEnd, hEsc⟩ : b ≠ END ∧ b ≠ ESC := by simpa using h
    exact ⟨[b], by rw [onePass_cons, sub_eq, if_neg hEnd, if_neg hEsc]; rfl⟩
  | case3 c s ih =>
    obtain ⟨hc, hs⟩ : (c = ESC_END ∨ c = ESC_ESC) ∧ payloadOk s = true := by simpa using h
    obtain ⟨d, rfl⟩ := ih hs
    obtain rfl | rfl := hc
    · exact ⟨END :: d, by rw [onePass_cons, sub_eq]; rfl⟩
    · exact ⟨ESC :: d, by rw [onePass_cons, sub_eq]; rfl⟩
  | case4 b c s hEsc ih =>
    obtain ⟨hEnd, hs⟩ : b ≠ END ∧ payloadOk (c :: s) = true := by simpa using h
    obtain ⟨d, hd⟩ := ih hs
    exact ⟨b :: d, by rw [onePass_cons, sub_eq, if_neg hEnd, if_neg hEsc, hd]; rfl⟩

/-- No two datagrams have one payload: the decoder, with an unbounded buffer, reads the datagram back. -/
theorem onePass_injective : Function.Injective onePass := by
  have hread (d : List Byte) :
      ((Link.created Wiring.all).decodeStream Params.source 0 (onePass d)).buf = d := by
    rw [Link.decodeStream_onePass rfl 0 rfl d (by simp [Params.source])]
    rfl
  intro d e h
  rw [← hread d, h, hread e]

theorem encodeFrame_injective : Function.Injective encodeFrame := by
  intro d e h
  simp only [encodeFrame_eq_onePass, List.append_cancel_right_eq, List.append_cancel_left_eq] at h
  exact onePass_injective h

/-- A frame is a payload between two END (30_encoding R61). -/
theorem isFrame_iff {f : List Byte} : isFrame f = true ↔ ∃ p, payloadOk p = true ∧ f = [END] ++ p ++ [END] := by
  constructor
  · intro h
    cases f with
    | nil => cases h
    | cons b s =>
      obtain ⟨⟨hb, hlast⟩, hp⟩ : (b = END ∧ s.getLast? = some END) ∧ payloadOk s.dropLast = true := by
        simpa [isFrame] using h
      refine ⟨s.dropLast, hp, ?_⟩
      rw [hb, List.append_assoc, List.dropLast_append_getLast? END hlast]
      rfl
  · rintro ⟨p, hp, rfl⟩
    rwa [isFrame_delimited]

/-- Settles O43: a frame's payload is the substitution of some datagram, and the encoder is injective. -/
theorem encoderProducesExactlyTheFrames : Obligations.EncoderProducesExactlyTheFrames := by
  refine ⟨isFrame_encodeFrame, fun f hf => ?_⟩
  obtain ⟨p, hp, rfl⟩ := isFrame_iff.mp hf
  obtain ⟨d, rfl⟩ := exists_onePass_of_payloadOk hp
  have hd := encodeFrame_eq_onePass d
  exact ⟨d, hd, fun e he => encodeFrame_injective (he.trans hd.symm)⟩

end Sys2Proof.Machine
end

section
/-! ## What the words of each table decode to (30_encoding R65 to R67) -/

namespace Sys2Proof

/-- Settles O3, by running the decoder on each word. -/
theorem wordsOfTheSpecDecode : Obligations.WordsOfTheSpecDecode := by
  unfold Obligations.WordsOfTheSpecDecode
  decide

/-- Settles O4: the two words with a full mask are told by both fields, RX_BYTE's by `op` alone. -/
theorem commandWordsDecodeByTheirFields : Obligations.CommandWordsDecodeByTheirFields := by
  intro w
  simp only [decode, ← resetWord_iff, ← txWord_iff]
  refine ⟨decodeCmd_eq w [], fun hTx d => ?_⟩
  rw [decodeCmd_eq, if_neg (by rw [hTx]; decide), if_neg (txWord_op_ne_rx hTx), if_pos hTx]

/-- Settles O6: the key's number and its fields, and the row of each byte in each mode. -/
theorem decoderKeySelectsItsRow : Obligations.DecoderKeySelectsItsRow :=
  ⟨fun b => ⟨by simpa using dKey_toNat .normal b, dKey_toNat .escaped b⟩,
    fun k => ⟨keyMode k, keyByte k, (dKey_fields k).symm⟩,
    fun b => congrArg Except.ok (decodeKey_normal b),
    fun b => congrArg Except.ok (decodeKey_escaped b)⟩

/-- Settles O7: the row of a datagram byte and its output. -/
theorem datagramByteSelectsItsSubstitution : Obligations.DatagramByteSelectsItsSubstitution :=
  fun b => ⟨congrArg Except.ok (decodeEByte_eq b), Machine.sub_eq b⟩

end Sys2Proof
end

section
/-! ## A table word presented (30_encoding R75, log entry 11), and pseudo-operations (R74) -/

namespace Sys2Proof.Machine

@[simp] theorem State.withKeyMode_host (s : State) (e : Encoded) : (s.withKeyMode e).host = s.host := by
  cases e with
  | dkey k => rw [State.withKeyMode]; split <;> rfl
  | _ => rfl

@[simp] theorem State.withKeyMode_sel (s : State) (e : Encoded) : (s.withKeyMode e).sel = s.sel := by
  cases e with
  | dkey k => rw [State.withKeyMode]; split <;> rfl
  | _ => rfl

/-- A table word is read as the presented operation it stands for. -/
theorem decodeTableWord_eq_some {nbits w : Nat} {i : Instr} :
    decodeTableWord nbits w = some i ↔ decode (encodedOfTableWord nbits w) = .ok i := by
  unfold decodeTableWord
  split <;> simp_all

/-- A presented operation that decodes runs next, in the state with the mode its key carries. -/
theorem step_present {e : Encoded} {i : Instr} (h : decode e = .ok i) (s : State) :
    step (s.present e) = exec i (s.withKeyMode e) := by
  rw [stepRunsTheDecodedInstruction _ _ _ _ rfl h, ← State.withKeyMode_host s e, ← State.withKeyMode_sel s e]
  rfl

/-- Settles O9: the word is presented as the operation it is read as. -/
theorem presentedTableWordRuns : Obligations.PresentedTableWordRuns :=
  fun s _ _ _ h => step_present (decodeTableWord_eq_some.mp h) s

/-- Settles O53: one RX_BYTE for each byte, in order, is a map. -/
theorem pseudoOperationsExpand : Obligations.PseudoOperationsExpand :=
  ⟨fun _ => List.map_eq_flatMap, rfl, fun _ => rfl⟩

end Sys2Proof.Machine
end

section
/-! ## RX_BYTE on a ready instance (40_decoder R80, R88) -/

namespace Sys2Proof.Machine

/-- RX_BYTE always completes (40_decoder R90). -/
theorem exec_rxByte {s : State} {l : Link} (h : s.ready l) (b : Byte) :
    exec (.rxByte b) s = .next (s.setLink s.sel (l.rxByte s.params s.sel b)) :=
  exec_of_runs h rfl

/-- With no spontaneous faults admitted it leaves what the transition of its key leaves. -/
theorem exec_rxByte_plain {s : State} {l : Link} (h : s.ready l) (hp : s.params.admitSpontaneousFault = false)
    (b : Byte) :
    exec (.rxByte b) s = .next (s.setLink s.sel (l.transition s.params (l.rowFor b) b).link) := by
  rw [exec_rxByte h, Link.rxByte_plain hp]

/-- With spontaneous faults admitted the draw is free, and counted (40_decoder R88). -/
theorem Link.rxByte_admitted {p : Params} (hp : p.admitSpontaneousFault = true) (k : Nat) (l : Link) (b : Byte) :
    l.rxByte p k b = Link.rxByteDrawn p (Config.faultDraw k l.draws) { l with draws := l.draws + 1 } b := by
  simp [Link.rxByte, Link.faultDraw, Link.countDraw, hp]

/-- Settles O25: with the draw NONE the transition alone, and else one case for each draw. -/
theorem spontaneousFaultsFollowTheDraw : Obligations.SpontaneousFaultsFollowTheDraw := by
  intro s l b h
  refine ⟨fun hp => exec_rxByte_plain h hp b, fun hp => ?_⟩
  rw [exec_rxByte h, Link.rxByte_admitted hp]
  cases Config.faultDraw s.sel l.draws <;> rfl

/-- The instruction of a key is the row of that key on its byte. -/
theorem Link.runs_decodeKey_eq (p : Params) (k : Nat) (l : Link) (m : Mode) (b : Byte) :
    Link.runs p k (decodeKey (dKey m b)) l =
      l.onDRow (dRowOf (dKey m b)) b (·.transition p (dRowOf (dKey m b)) b) := by
  cases m with
  | normal =>
    rw [decodeKey_normal, dRowOf_normal]
    split_ifs with hEnd hEsc
    · rw [hEnd]; rfl
    · rw [hEsc]; rfl
    · rfl
  | escaped =>
    rw [decodeKey_escaped, dRowOf_escaped]
    split_ifs with hEscEnd hEscEsc
    · rw [hEscEnd]; rfl
    · rw [hEscEsc]; rfl
    · rfl

/-- The row that a byte selects in the present mode runs on its own, and is the transition of that byte (log entry 6). -/
theorem Link.runs_decodeKey (p : Params) (k : Nat) (l : Link) (b : Byte) :
    Link.runs p k (decodeKey (dKey l.mode b)) l = .ok (l.transition p (l.rowFor b) b).link := by
  rw [Link.runs_decodeKey_eq]
  exact onDRow_ok.mpr ⟨rfl, rfl⟩

/-- Settles O26: both leave the transition that the key selects. -/
theorem selectedRowRunsAsRxByte : Obligations.SelectedRowRunsAsRxByte :=
  fun s l b h hp => ⟨_, exec_of_runs h (l.runs_decodeKey s.params s.sel b), exec_rxByte_plain h hp b⟩

end Sys2Proof.Machine
end

section
/-! ## What a ready instance refuses (40_decoder R90, 41_encoder R117, 30_encoding R66, R67) -/

namespace Sys2Proof.Machine

/-- An instruction is refused on a ready instance exactly when `Link.runs` refuses it, under that name. -/
theorem exec_refused_iff {i : Instr} {s : State} {l : Link} (h : s.ready l) {r : Refusal} :
    exec i s = .refused r ↔ Link.runs s.params s.sel i l = .error r := by
  rw [exec_eq_onLink, State.onLink_ready h]
  cases Link.runs s.params s.sel i l <;> simp

/-- The operand is past MAX_TX_LEN (41_encoder R117). -/
theorem txTooLong_iff {p : Params} {d : List Byte} :
    txTooLong p d = true ↔ ∃ m, p.maxTxLen = some m ∧ m < d.length := by
  unfold txTooLong
  cases p.maxTxLen <;> simp

theorem Link.onDRow_error {l : Link} {row : DRow} {b : Byte} {f : Link → Stepped} {r : Refusal}
    (h : l.onDRow row b f = .error r) : r = .rowNotSelected := by
  unfold Link.onDRow at h
  split at h <;> cases h
  rfl

theorem Link.onERow_error {l : Link} {row : ERow} {b : Byte} {out : List Byte} {r : Refusal}
    (h : l.onERow row b out = .error r) : r = .rowNotSelected := by
  unfold Link.onERow at h
  split at h <;> cases h
  rfl

/-- Everything an operation can be refused for: a datagram past MAX_TX_LEN, or a row on its own that is not selected. -/
theorem Link.runs_error_cases {p : Params} {k : Nat} {i : Instr} {l : Link} {r : Refusal}
    (h : Link.runs p k i l = .error r) :
    (r = .txTooLong ∧ ∃ d, i = .txDatagram d ∧ txTooLong p d = true) ∨ r = .rowNotSelected := by
  cases i with
  | reset => cases h
  | rxByte b => cases h
  | txDatagram d =>
    simp only [Link.runs] at h
    split at h <;> cases h
    next hlen => exact .inl ⟨rfl, d, rfl, hlen⟩
  | dNEnd => exact .inr (onDRow_error h)
  | dNEsc => exact .inr (onDRow_error h)
  | dNData b => exact .inr (onDRow_error (f := (·.transNData p b)) h)
  | dEEscEnd => exact .inr (onDRow_error h)
  | dEEscEsc => exact .inr (onDRow_error h)
  | dEBad b => exact .inr (onDRow_error (f := (·.transEBad b)) h)
  | eEnd => exact .inr (onERow_error h)
  | eEsc => exact .inr (onERow_error h)
  | eLit b => exact .inr (onERow_error h)

/-- TX_DATAGRAM is refused exactly past MAX_TX_LEN, and nothing else is refused as txTooLong (41_encoder R117). -/
theorem Link.runs_txTooLong_iff {p : Params} {k : Nat} {i : Instr} {l : Link} :
    Link.runs p k i l = .error .txTooLong ↔ ∃ d, i = .txDatagram d ∧ txTooLong p d = true := by
  constructor
  · intro h
    obtain ⟨_, hd⟩ | hr := Link.runs_error_cases h
    · exact hd
    · cases hr
  · rintro ⟨d, rfl, hlen⟩
    simp [Link.runs, hlen]

/-- A command decodes to the instruction, or the present mode and some byte select it as a decoder row, or some byte as
an encoder row (30_encoding R65 to R67). -/
def Link.Selects (l : Link) (i : Instr) : Prop :=
  (∃ w d, decode (.cmd w d) = .ok i) ∨ (∃ b, decodeKey (dKey l.mode b) = i) ∨ ∃ b, decodeEByte b = i

theorem Link.selects_txDatagram (l : Link) (d : List Byte) : l.Selects (.txDatagram d) :=
  .inl ⟨0x200#10, d, rfl⟩

/-- What completes is selected. -/
theorem Link.selects_of_runs {p : Params} {k : Nat} {i : Instr} {l l' : Link} (h : Link.runs p k i l = .ok l') :
    l.Selects i := by
  cases ha : Agent.of i with
  | rx =>
    obtain ⟨rfl, _⟩ | ⟨b, rfl, _⟩ | ⟨b, rfl, _⟩ := Link.runs_rx_cases ha h
    · exact .inl ⟨0x000#10, [], rfl⟩
    · exact .inl ⟨_, [], decodeCmd_rxWord b⟩
    · exact .inr (.inl ⟨b, rfl⟩)
  | tx =>
    cases i with
    | txDatagram d => exact l.selects_txDatagram d
    | eEnd => exact .inr (.inr ⟨END, rfl⟩)
    | eEsc => exact .inr (.inr ⟨ESC, rfl⟩)
    | eLit b => exact .inr (.inr ⟨b, by rw [decodeEByte, (onERow_ok.mp h).1]⟩)
    | _ => cases ha

/-- No command is refused as a row that is not selected. -/
theorem Link.runs_command_ne_rowNotSelected {w : BitVec 10} {d : List Byte} {i : Instr}
    (hi : decode (.cmd w d) = .ok i) (p : Params) (k : Nat) (l : Link) :
    Link.runs p k i l ≠ .error .rowNotSelected := by
  cases i with
  | reset => simp [Link.runs]
  | rxByte b => simp [Link.runs]
  | txDatagram d =>
    simp only [Link.runs]
    split <;> simp
  | _ => cases encode_of_decodeCmd hi

/-- The instruction of a datagram byte is the row of that byte on it. -/
theorem Link.runs_decodeEByte_eq (p : Params) (k : Nat) (l : Link) (b : Byte) :
    Link.runs p k (decodeEByte b) l = l.onERow (eRowOf b) b (sub b) := by
  rw [decodeEByte_eq, sub, eRowOf_eq]
  split_ifs with hEnd hEsc
  · rw [hEnd]; rfl
  · rw [hEsc]; rfl
  · rfl

/-- The substitution that a datagram byte selects runs on its own (log entry 6). -/
theorem Link.runs_decodeEByte (p : Params) (k : Nat) (l : Link) (b : Byte) :
    Link.runs p k (decodeEByte b) l = .ok { l with subTrace := l.subTrace ++ sub b } := by
  rw [Link.runs_decodeEByte_eq]
  exact onERow_ok.mpr ⟨rfl, rfl⟩

/-- A row is refused as not selected exactly when it is not. -/
theorem Link.runs_rowNotSelected_iff {p : Params} {k : Nat} {i : Instr} {l : Link} :
    Link.runs p k i l = .error .rowNotSelected ↔ ¬ l.Selects i := by
  constructor
  · rintro h (⟨w, d, hi⟩ | ⟨b, rfl⟩ | ⟨b, rfl⟩)
    · exact Link.runs_command_ne_rowNotSelected hi p k l h
    · rw [Link.runs_decodeKey] at h; cases h
    · rw [Link.runs_decodeEByte] at h; cases h
  · intro hnot
    cases h : Link.runs p k i l with
    | ok l' => exact absurd (Link.selects_of_runs h) hnot
    | error r =>
      obtain ⟨_, d, rfl, _⟩ | rfl := Link.runs_error_cases h
      · exact absurd (l.selects_txDatagram d) hnot
      · rfl

/-- Settles O29: `Link.runs` refuses a long datagram and a row that is not selected, and nothing else. -/
theorem readyInstanceRefusesOnlyByName : Obligations.ReadyInstanceRefusesOnlyByName := by
  intro i s l h
  refine ⟨?_, ?_, fun r hr => (Link.runs_error_cases ((exec_refused_iff h).mp hr)).imp_left And.left⟩
  · simp [exec_refused_iff h, Link.runs_txTooLong_iff, txTooLong_iff]
  · simp [exec_refused_iff h, Link.runs_rowNotSelected_iff, Link.Selects]

end Sys2Proof.Machine
end

section
/-! ## When a datagram is emitted (40_decoder R89) -/

namespace Sys2Proof.Machine

theorem Link.rxOut_of_trace_eq {l l' : Link} (h : l'.trace = l.trace) : l'.rxOut = l.rxOut := by
  rw [Link.rxOut, h, Link.rxOut]

/-- An event is no record of rx_out. -/
theorem Link.rxOut_of_ev {l l' : Link} {e : Event} (h : l'.trace = l.trace ++ [.ev e]) : l'.rxOut = l.rxOut := by
  simp [Link.rxOut, h]

theorem Link.rxOut_of_emit {l l' : Link} {d : List Byte} (h : l'.trace = l.trace ++ [.emit d]) :
    l'.rxOut = l.rxOut ++ [d] := by
  simp [Link.rxOut, h]

theorem Link.raiseInternal_rxOut (l : Link) (c : Cause) (b : Byte) : (l.raiseInternal c b).rxOut = l.rxOut :=
  rxOut_of_ev (l.raiseInternal_trace c b)

theorem Link.bufAppend_rxOut (p : Params) (l : Link) (data rx : Byte) :
    (l.bufAppend p data rx).link.rxOut = l.rxOut := by
  by_cases hfull : p.bufCap = some l.buf.length
  · rw [Link.bufAppend_full hfull, Link.raiseInternal_rxOut]
  · rw [Link.bufAppend_room hfull]
    rfl

/-- D_N_END emits a non-empty buffer (40_decoder R81). -/
theorem Link.transNEnd_rxOut (l : Link) :
    l.transNEnd.link.rxOut = l.rxOut ++ if l.buf ≠ [] then [l.buf] else [] := by
  by_cases hbuf : l.buf = []
  · simpa [hbuf] using rxOut_of_trace_eq (l := l) (by simp [Link.transNEnd_link, hbuf])
  · simpa [hbuf] using rxOut_of_emit (l := l) (by simp [Link.transNEnd_link, hbuf])

/-- No other row emits (40_decoder R89). -/
theorem Link.transition_rxOut_of_ne (p : Params) (l : Link) {row : DRow} (h : row ≠ .nEnd) (b : Byte) :
    (l.transition p row b).link.rxOut = l.rxOut := by
  cases row with
  | nEnd => exact absurd rfl h
  | nEsc => rfl
  | nData => exact l.bufAppend_rxOut p b b
  | eEscEnd => exact (l.setMode .normal).bufAppend_rxOut p END ESC_END
  | eEscEsc => exact (l.setMode .normal).bufAppend_rxOut p ESC ESC_ESC
  | eBad => exact rxOut_of_ev (l.raiseMalformed_trace b)

/-- D_N_END is the row of END in NORMAL, and of no other byte and mode (30_encoding R66). -/
theorem Link.rowFor_eq_nEnd_iff {l : Link} {b : Byte} : l.rowFor b = .nEnd ↔ b = END ∧ l.mode = .normal := by
  cases hm : l.mode with
  | normal => rw [Link.rowFor_normal hm]; split_ifs <;> simp [*]
  | escaped => rw [Link.rowFor_escaped hm]; split_ifs <;> simp

/-- The transition of a byte emits exactly at END in NORMAL with a non-empty buffer. -/
theorem Link.transition_rowFor_rxOut (p : Params) (l : Link) (b : Byte) :
    (l.transition p (l.rowFor b) b).link.rxOut =
      l.rxOut ++ if b = END ∧ l.mode = .normal ∧ l.buf ≠ [] then [l.buf] else [] := by
  by_cases hrow : l.rowFor b = .nEnd
  · obtain ⟨hb, hm⟩ := rowFor_eq_nEnd_iff.mp hrow
    rw [hrow, Link.transition, Link.transNEnd_rxOut]
    simp [hb, hm]
  · rw [Link.transition_rxOut_of_ne p l hrow, if_neg, List.append_nil]
    rintro ⟨hb, hm, _⟩
    exact hrow (rowFor_eq_nEnd_iff.mpr ⟨hb, hm⟩)

/-- RX_BYTE emits what its transition emits, unless the draw BEFORE stops the transition (40_decoder R88). -/
theorem Link.rxByteDrawn_rxOut (p : Params) (f : Draw) (l : Link) (b : Byte) :
    (l.rxByteDrawn p f b).rxOut =
      l.rxOut ++ if (b = END ∧ f ≠ .before) ∧ l.mode = .normal ∧ l.buf ≠ [] then [l.buf] else [] := by
  have htrans := l.transition_rowFor_rxOut p b
  cases f with
  | none =>
    rw [Link.rxByteDrawn, htrans]
    simp
  | before =>
    rw [Link.rxByteDrawn, Link.raiseInternal_rxOut]
    simp
  | after =>
    simp only [Link.rxByteDrawn]
    split
    · rw [htrans]
      simp
    · rw [Link.raiseInternal_rxOut, htrans]
      simp

theorem Link.faultDraw_eq_before_iff {p : Params} {k : Nat} {l : Link} :
    l.faultDraw p k = .before ↔ p.admitSpontaneousFault = true ∧ Config.faultDraw k l.draws = .before := by
  unfold Link.faultDraw
  split <;> simp [*]

theorem Link.rxByte_rxOut (p : Params) (k : Nat) (l : Link) (b : Byte) :
    (l.rxByte p k b).rxOut =
      l.rxOut ++ if (b = END ∧ ¬(p.admitSpontaneousFault = true ∧ Config.faultDraw k l.draws = .before)) ∧
        l.mode = .normal ∧ l.buf ≠ [] then [l.buf] else [] := by
  rw [Link.rxByte, Link.rxByteDrawn_rxOut, rxOut_of_trace_eq (l.countDraw_trace p)]
  simp only [Link.countDraw_mode, Link.countDraw_buf, ne_eq, Link.faultDraw_eq_before_iff]

/-- A byte selects the instruction D_N_END exactly when it selects that row. -/
theorem Link.decodeKey_eq_dNEnd_iff {l : Link} {b : Byte} :
    decodeKey (dKey l.mode b) = .dNEnd ↔ l.rowFor b = .nEnd := by
  unfold decodeKey Link.rowFor
  split <;> simp [*]

/-- No key is a command (30_encoding R66). -/
theorem decodeKey_ne_rxByte (k : BitVec 9) (b : Byte) : decodeKey k ≠ .rxByte b := by
  unfold decodeKey
  split <;> simp

/-- What an operation that completes adds to rx_out (40_decoder R88, R89). -/
theorem Link.runs_rxOut {p : Params} {k : Nat} {i : Instr} {l l' : Link} (h : Link.runs p k i l = .ok l') :
    l'.rxOut = l.rxOut ++
      if (i = .dNEnd ∨ i = .rxByte END ∧
            ¬(p.admitSpontaneousFault = true ∧ Config.faultDraw k l.draws = .before)) ∧
          l.mode = .normal ∧ l.buf ≠ [] then [l.buf] else [] := by
  cases ha : Agent.of i with
  | rx =>
    obtain ⟨rfl, rfl⟩ | ⟨b, rfl, rfl⟩ | ⟨b, rfl, rfl⟩ := Link.runs_rx_cases ha h
    · simp [Link.rxOut]
    · simp [Link.rxByte_rxOut]
    · simp [Link.transition_rowFor_rxOut, Link.decodeKey_eq_dNEnd_iff, Link.rowFor_eq_nEnd_iff, decodeKey_ne_rxByte,
        and_assoc]
  | tx =>
    have hrxOut : l'.rxOut = l.rxOut := by
      obtain ⟨d, _, rfl⟩ | ⟨_, out, rfl⟩ := Link.runs_tx_cases ha h
      · exact l.rxOut_txWrite _
      · rfl
    rw [hrxOut, if_neg, List.append_nil]
    rintro ⟨rfl | ⟨rfl, _⟩, _⟩ <;> cases ha

/-- Settles O37: an operation puts back the selected instance as `Link.runs` says. -/
theorem emissionIsExactlyAtEnd : Obligations.EmissionIsExactlyAtEnd := by
  intro i s t l hready h
  obtain ⟨l', hr, rfl⟩ := exec_next_at hready h
  exact ⟨l', s.setLink_same s.sel l l' hready.1, Link.runs_rxOut hr⟩

end Sys2Proof.Machine
end

section
/-! ## Driven streams of bytes (40_decoder R91, R92, R96) -/

namespace Sys2Proof.Machine

/-- A run whose first step completes goes on from where that step ends. -/
theorem run_succ_of_step {s t : State} (h : step s = .next t) (n : Nat) : core.run (n + 1) s = core.run n t := by
  have hcore : core.step s = .next t := h
  simp only [Host.Core.run, hcore]

/-- A driven RX_BYTE runs on the instance it names, if its outputs are wired. -/
theorem step_drive_rxByte {s : State} {k : Nat} {l : Link} {b : Byte} {rest : List Request} (hl : s.links[k]? = some l)
    (hw : l.wiring.ready = true) (hhost : s.host = .drive ⟨k, encode (.rxByte b)⟩ :: rest) :
    step s = .next { s with links := s.links.set k (l.rxByte s.params k b), host := rest, sel := k } := by
  rw [stepRunsTheDecodedInstruction s _ rest (.rxByte b) hhost (decodeCmd_rxWord b)]
  exact exec_rxByte ⟨hl, hw⟩ b

/-- Settles O47, by induction on the bytes: the instance that an RX_BYTE leaves is still there and wired. -/
theorem drivenBytesDecodeAsAStream : Obligations.DrivenBytesDecodeAsAStream := by
  intro s k l bs rest hl hw hhost
  induction bs generalizing s l with
  | nil =>
    obtain ⟨hk, rfl⟩ := List.getElem?_eq_some_iff.mp hl
    obtain rfl : s.host = rest := hhost
    simp [Host.Core.run]
  | cons b bs ih =>
    have hwiring : (l.rxByte s.params k b).wiring = l.wiring := (l.rxByte_frame s.params k b).1
    have hk : k < s.links.length := (List.getElem?_eq_some_iff.mp hl).1
    rw [List.length_cons, run_succ_of_step (step_drive_rxByte hl hw hhost),
      ih _ _ (by simp [hk]) (hwiring ▸ hw) rfl]
    simp

/-- Settles O48: mapping and folding over an append. -/
theorem splittingAStreamChangesNothing : Obligations.SplittingAStreamChangesNothing :=
  fun p k l a b => ⟨by simp [assemble, Asm.expand], l.decodeStream_append p k a b⟩

end Sys2Proof.Machine
end

section
/-! ## RX_BYTE in each mode (40_decoder R81 to R86) -/

namespace Sys2Proof.Machine

/-- Settles O17: the transition is D_N_END's. -/
theorem endInNormalEmitsTheBuffer : Obligations.EndInNormalEmitsTheBuffer := by
  refine ⟨by decide, fun s l h hp hm => ?_⟩
  rw [exec_rxByte_plain h hp, Link.rowFor_normal hm, if_pos rfl, Link.transition, Link.transNEnd_link, ← hm]

/-- Settles O18: the transition is D_N_ESC's. -/
theorem escInNormalEscapes : Obligations.EscInNormalEscapes := by
  refine ⟨by decide, fun s l h hp hm => ?_⟩
  rw [exec_rxByte h, Link.rxByte_esc_normal hp _ hm]
  rfl

/-- Settles O19: the transition is D_N_DATA's. -/
theorem dataInNormalIsAppended : Obligations.DataInNormalIsAppended := by
  intro s l b h hp hm hEnd hEsc
  constructor
  · change Except.ok (decodeKey (dKey .normal b)) = _
    rw [decodeKey_normal, if_neg hEnd, if_neg hEsc]
  · rw [exec_rxByte_plain h hp, Link.rowFor_normal hm, if_neg hEnd, if_neg hEsc, Link.transition, Link.transNData,
      Link.bufAppend_link, ← hm]

/-- Settles O20: the transition is D_E_ESCEND's. -/
theorem escEndAppendsALiteralEnd : Obligations.EscEndAppendsALiteralEnd := by
  refine ⟨by decide, fun s l h hp hm => ?_⟩
  rw [exec_rxByte_plain h hp, Link.rowFor_escaped hm, if_pos rfl, Link.transition, Link.transEEscEnd_link]

/-- Settles O21: the transition is D_E_ESCESC's. -/
theorem escEscAppendsALiteralEsc : Obligations.EscEscAppendsALiteralEsc := by
  refine ⟨by decide, fun s l h hp hm => ?_⟩
  rw [exec_rxByte_plain h hp, Link.rowFor_escaped hm, if_neg escEsc_ne_escEnd, if_pos rfl, Link.transition,
    Link.transEEscEsc_link]

/-- Settles O22: the transition is D_E_BAD's. -/
theorem badEscapeIsAMalformedFrame : Obligations.BadEscapeIsAMalformedFrame := by
  intro s l b h hp hm hEscEnd hEscEsc
  constructor
  · change Except.ok (decodeKey (dKey .escaped b)) = _
    rw [decodeKey_escaped, if_neg hEscEnd, if_neg hEscEsc]
  · rw [exec_rxByte_plain h hp, Link.rowFor_escaped hm, if_neg hEscEnd, if_neg hEscEsc]
    rfl

end Sys2Proof.Machine
end

section
/-! ## A frame read by the decoder (41_encoder R120) -/

namespace Sys2Proof.Machine

/-- What END records: the datagram collected so far in NORMAL (40_decoder R81), a MalformedFrame in ESCAPED (R86). -/
def Link.endRecords (l : Link) : List Rec :=
  match l.mode with
  | .normal => if l.buf = [] then [] else [.emit l.buf]
  | .escaped => [.ev (.malformedFrame END l.buf.length)]

section
variable {p : Params} (hp : p.admitSpontaneousFault = false) (k : Nat)
include hp

/-- END leaves the clean state from every state (41_encoder R120). -/
theorem Link.rxByte_end (l : Link) : l.rxByte p k END = { l.clean with trace := l.trace ++ l.endRecords } := by
  rw [Link.rxByte_plain hp]
  cases hm : l.mode with
  | normal =>
    rw [Link.rowFor_normal hm, if_pos rfl, Link.transition, Link.transNEnd_link]
    by_cases hbuf : l.buf = [] <;> simp [Link.endRecords, hm, hbuf, Link.clean, Link.bufClear]
  | escaped =>
    rw [Link.rowFor_escaped hm, if_neg end_ne_escEnd, if_neg end_ne_escEsc, Link.transition, Link.transEBad]
    simp [Link.endRecords, hm, Link.raiseMalformed, Link.report, Link.record]

/-- The frame of a datagram that fits: what its leading END records, and what END records of the datagram collected. -/
theorem Link.decodeStream_encodeFrame (l : Link) {d : List Byte} (hfit : ∀ c, p.bufCap = some c → d.length ≤ c) :
    l.decodeStream p k (encodeFrame d) =
      { l.clean with trace := l.trace ++ l.endRecords ++ Link.endRecords { l.clean with buf := d } } := by
  rw [encodeFrame_eq_onePass, List.append_assoc, List.singleton_append, Link.decodeStream_cons,
    Link.rxByte_end hp, Link.decodeStream_append, Link.decodeStream_onePass hp k rfl d (by simpa using hfit),
    Link.decodeStream_cons, Link.decodeStream_nil, Link.rxByte_end hp]
  rfl

end

/-- Settles O49: the leading END cleans whatever state it finds, the payload is collected, the trailing END emits it. -/
theorem frameDecodesFromAnyState : Obligations.FrameDecodesFromAnyState := by
  intro p k l d hp hfit
  rw [Link.decodeStream_encodeFrame hp k l hfit]
  rfl

end Sys2Proof.Machine
end

section
/-! ## The two passes (41_encoder R111 to R113) -/

namespace Sys2Proof.Machine

theorem pass1_cons (b : Byte) (s : List Byte) :
    pass1 (b :: s) = (if b = ESC then [ESC, ESC_ESC] else [b]) ++ pass1 s := by
  rw [pass1]
  split <;> rfl

theorem pass2_cons (b : Byte) (s : List Byte) :
    pass2 (b :: s) = (if b = END then [ESC, ESC_END] else [b]) ++ pass2 s := by
  rw [pass2]
  split <;> rfl

/-- Pass 1 neither drops nor introduces an END: it replaces ESC alone, and by bytes other than END. -/
theorem count_end_pass1 (d : List Byte) : (pass1 d).count END = d.count END := by
  induction d with
  | nil => rfl
  | cons b d ih =>
    rw [pass1_cons, List.count_append, ih, List.count_cons]
    split
    next hEsc => simp [hEsc]
    next => rw [List.count_singleton, Nat.add_comm]

/-- Pass 2 leaves no END. -/
theorem end_notMem_pass2 (d : List Byte) : END ∉ pass2 d := by
  induction d with
  | nil => exact List.not_mem_nil
  | cons b d ih =>
    rw [pass2_cons, List.mem_append, not_or]
    refine ⟨?_, ih⟩
    split
    · decide
    next hEnd => simpa using Ne.symm hEnd

/-- Settles O40: the equations are the definitions', and the rest is by induction on the datagram. -/
theorem passesReplaceExactlyTheirByte : Obligations.PassesReplaceExactlyTheirByte :=
  ⟨rfl, pass1_cons, rfl, pass2_cons, count_end_pass1, end_notMem_pass2⟩

/-- Settles O41: the two passes substitute byte by byte. -/
theorem twoPassesEqualOnePass : Obligations.TwoPassesEqualOnePass :=
  fun d => (passes_eq_onePass d).trans (congrArg d.flatMap (funext sub_eq))

end Sys2Proof.Machine
end

section
/-! ## The shape of a frame (41_encoder R119) -/

namespace Sys2Proof

/-- In a payload that END follows, every ESC is followed by the byte that completes it (30_encoding R61). -/
theorem payloadOk_esc_followed {p : List Byte} (h : payloadOk p = true) {n : Nat}
    (hn : (p ++ [END])[n]? = some ESC) :
    (p ++ [END])[n + 1]? = some ESC_END ∨ (p ++ [END])[n + 1]? = some ESC_ESC := by
  fun_induction payloadOk p generalizing n with
  | case1 => cases n <;> simp at hn
  | case2 b =>
    obtain ⟨_, hEsc⟩ : b ≠ END ∧ b ≠ ESC := by simpa using h
    match n with
    | 0 => exact absurd (by simpa using hn) hEsc
    | 1 => simp at hn
    | n + 2 => simp at hn
  | case3 c s ih =>
    obtain ⟨hc, hs⟩ : (c = ESC_END ∨ c = ESC_ESC) ∧ payloadOk s = true := by simpa using h
    match n with
    | 0 => simpa using hc
    | 1 =>
      obtain rfl : c = ESC := by simpa using hn
      simp at hc
    | n + 2 => exact ih hs hn
  | case4 b c s hEsc ih =>
    obtain ⟨_, hs⟩ : b ≠ END ∧ payloadOk (c :: s) = true := by simpa using h
    cases n with
    | zero => exact absurd (by simpa using hn) hEsc
    | succ n => exact ih hs hn

end Sys2Proof

namespace Sys2Proof.Machine

/-- A byte that is escaped takes two bytes, any other one. -/
theorem length_sub (b : Byte) : (sub b).length = 1 + if b == END || b == ESC then 1 else 0 := by
  rw [sub_eq]
  by_cases hEnd : b = END
  · simp [hEnd]
  · by_cases hEsc : b = ESC <;> simp [hEnd, hEsc]

theorem length_onePass (d : List Byte) :
    (onePass d).length = d.length + d.countP (fun b => b == END || b == ESC) := by
  induction d with
  | nil => rfl
  | cons b d ih =>
    rw [onePass_cons, List.length_append, ih, length_sub, List.length_cons, List.countP_cons]
    omega

theorem length_encodeFrame (d : List Byte) : (encodeFrame d).length = (onePass d).length + 2 := by
  simp [encodeFrame_eq_onePass]

/-- After the leading END stands the payload, and then the trailing END. -/
theorem encodeFrame_getElem?_succ (d : List Byte) (n : Nat) :
    (encodeFrame d)[n + 1]? = (onePass d ++ [END])[n]? := by
  simp [encodeFrame_eq_onePass]

theorem encodeFrame_getElem?_last (d : List Byte) : (encodeFrame d)[(encodeFrame d).length - 1]? = some END :=
  List.getLast?_eq_getElem?.symm.trans List.getLast?_concat

/-- Between the two END of a frame is no other. -/
theorem encodeFrame_getElem?_ne_end {d : List Byte} {n : Nat} (hpos : 0 < n) (hn : n < (encodeFrame d).length - 1) :
    (encodeFrame d)[n]? ≠ some END := by
  obtain ⟨m, rfl⟩ := Nat.exists_eq_add_of_lt hpos
  have hm : m < (onePass d).length := by
    rw [length_encodeFrame] at hn
    omega
  rw [Nat.zero_add, encodeFrame_getElem?_succ, List.getElem?_append_left hm, ← passes_eq_onePass]
  exact fun h => end_notMem_pass2 _ (List.mem_of_getElem? h)

theorem encodeFrame_esc_followed {d : List Byte} {n : Nat} (h : (encodeFrame d)[n]? = some ESC) :
    (encodeFrame d)[n + 1]? = some ESC_END ∨ (encodeFrame d)[n + 1]? = some ESC_ESC := by
  cases n with
  | zero => simp [encodeFrame] at h
  | succ n =>
    rw [encodeFrame_getElem?_succ] at h ⊢
    exact payloadOk_esc_followed (passes_eq_onePass d ▸ payloadOk_passes d) h

/-- Settles O42: the length, the two ends, no END between them, every ESC completed, and the language of frames. -/
theorem everyFrameHasTheShape : Obligations.EveryFrameHasTheShape := by
  intro d
  refine ⟨?_, rfl, encodeFrame_getElem?_last d, fun _ => encodeFrame_getElem?_ne_end,
    fun _ => encodeFrame_esc_followed, isFrame_encodeFrame d⟩
  rw [length_encodeFrame, length_onePass, Nat.add_right_comm]

end Sys2Proof.Machine
end

section
/-! ## Operations of the TX agent on a ready instance (41_encoder R110, R113, R117) -/

namespace Sys2Proof.Machine

/-- TX_DATAGRAM past MAX_TX_LEN is refused, and any other writes its frame (41_encoder R117). -/
theorem exec_txDatagram {s : State} {l : Link} (h : s.ready l) (d : List Byte) :
    exec (.txDatagram d) s =
      if txTooLong s.params d then .refused .txTooLong else .next (s.setLink s.sel (l.txWrite (encodeFrame d))) := by
  split
  next hlong => exact (exec_refused_iff h).mpr (Link.runs_txTooLong_iff.mpr ⟨d, rfl, hlong⟩)
  next hfit => exact exec_of_runs h (if_neg hfit)

/-- Settles O27: with MAX_TX_LEN none no datagram is past it. -/
theorem txDatagramWritesItsFrame : Obligations.TxDatagramWritesItsFrame := by
  refine ⟨fun _ => rfl, fun s l d h => ⟨fun hmax => ?_, fun m hmax => ?_⟩⟩
  · exact exec_of_runs h (Link.runs_txDatagram hmax ..)
  · simp only [exec_txDatagram h, txTooLong_iff, hmax, Option.some.injEq, exists_eq_left']
    rfl

/-- The substitution a datagram byte selects adds its output to the substitution outputs (log entries 6 and 7). -/
theorem exec_decodeEByte {s : State} {l : Link} (h : s.ready l) (b : Byte) :
    exec (decodeEByte b) s = .next (s.setLink s.sel { l with subTrace := l.subTrace ++ sub b }) :=
  exec_of_runs h (l.runs_decodeEByte s.params s.sel b)

/-- Settles O28: each row is the one that its byte selects. -/
theorem encoderRowsOutputTheirSubstitution : Obligations.EncoderRowsOutputTheirSubstitution := by
  refine fun s l h => ⟨exec_decodeEByte h END, exec_decodeEByte h ESC, fun b hEnd hEsc => ?_⟩
  have hb := exec_decodeEByte h b
  rwa [decodeEByte_eq, sub_eq, if_neg hEnd, if_neg hEsc, if_neg hEnd, if_neg hEsc] at hb

end Sys2Proof.Machine
end

section
/-! ## Small frames and the order of the passes (41_encoder R115, R121) -/

namespace Sys2Proof.Machine

/-- Settles O44: what the other order makes of the datagram C0 is the frame of the datagram DB DC. -/
theorem passOrderIsLoadBearing : Obligations.PassOrderIsLoadBearing := by
  refine ⟨by decide, by decide, by decide, fun k w => ?_⟩
  have hframe : [END] ++ pass1 (pass2 [END]) ++ [END] = encodeFrame [ESC, ESC_END] := by decide
  rw [hframe, frameDecodesFromAnyState _ k _ _ rfl (by simp [Params.source])]
  rfl

/-- No MAX_TX_LEN is below the length of the empty datagram (41_encoder R117, R121). -/
theorem txTooLong_nil (p : Params) : txTooLong p [] = false := by
  simp [← Bool.not_eq_true, txTooLong_iff]

/-- Settles O45: the empty datagram is never too long, and both END of its frame find an empty buffer. -/
theorem smallFramesAreAsTheSpecSays : Obligations.SmallFramesAreAsTheSpecSays := by
  refine ⟨by decide, by decide, by decide, fun s l h => ?_, fun p k l hp hm hbuf => ?_⟩
  · rw [exec_txDatagram h, txTooLong_nil]
    rfl
  · refine Link.rxOut_of_trace_eq ?_
    have hdecode := frameDecodesFromAnyState p k l [] hp (by simp)
    rw [show [END, END] = encodeFrame [] from rfl, hdecode]
    simp [hm, hbuf]

end Sys2Proof.Machine
end

section
/-! ## Reserved command words (30_encoding R65, 42_control R131) -/

namespace Sys2Proof

/-- A word of `op` 3, or of `op` 0 or 2 with data, decodes to nothing, whatever stands on the side operand. -/
theorem decodeCmd_reserved {w : BitVec 10}
    (h : w.extractLsb' 8 2 = 0b11#2 ∨
      (w.extractLsb' 0 8 ≠ 0x00#8 ∧ (w.extractLsb' 8 2 = 0b00#2 ∨ w.extractLsb' 8 2 = 0b10#2)))
    (d : List Byte) : decodeCmd w d = .error (.reservedCommand w) := by
  rw [decodeCmd_eq]
  simp only [resetWord_iff, txWord_iff]
  obtain hop | ⟨hdata, hop | hop⟩ := h
  · simp [hop]
  · simp [hop, hdata]
  · simp [hop, hdata]

end Sys2Proof

namespace Sys2Proof.Machine

/-- A driven operation that does not decode is refused, naming why. -/
theorem State.take_error {d : Drive} {e : DecodeError} (h : decode d.word = .error e) (s : State)
    (rest : List Request) : s.take d rest = .refuse (.undecoded e) := by
  simp [State.take, h]

/-- Settles O10: the request is a driven operation, and its word does not decode. -/
theorem reservedCommandIsRefused : Obligations.ReservedCommandIsRefused := by
  intro s k w d rest hhost hreserved
  rw [step, State.fetch_drive hhost, State.take_error (d := ⟨k, .cmd w d⟩) (decodeCmd_reserved hreserved d)]

end Sys2Proof.Machine
end

section
/-! ## RESET (42_control R130) -/

namespace Sys2Proof.Machine

theorem exec_reset {s : State} {l : Link} (h : s.ready l) : exec .reset s = .next (s.setLink s.sel l.clean) :=
  exec_of_runs h rfl

/-- The clean instance is clean already. -/
@[simp] theorem Link.clean_clean (l : Link) : l.clean.clean = l.clean := rfl

/-- Of two instances put back at one index the second stays. -/
@[simp] theorem State.setLink_setLink (s : State) (k : Nat) (l l' : Link) :
    (s.setLink k l).setLink k l' = s.setLink k l' := by
  simp [State.setLink]

/-- Settles O16: RESET puts back the clean instance, which is still ready, and cleaning it again changes nothing. -/
theorem resetGivesTheCleanState : Obligations.ResetGivesTheCleanState := by
  refine ⟨by decide, fun s l h => ⟨_, rfl, exec_reset h, ?_⟩⟩
  have hready : (s.setLink s.sel l.clean).ready l.clean := State.setLink_ready h l.clean_wiring
  have hagain := exec_reset hready
  rwa [State.setLink_sel, Link.clean_clean, State.setLink_setLink] at hagain

end Sys2Proof.Machine
end

section
/-! ## What one RX operation records (60_exceptions R150) -/

namespace Sys2Proof.Machine

/-- `l'` has the trace of `l`; or it is clean, and has after that trace one event, the buffer of `l` delivered, or that and
a spontaneous fault that discarded nothing. -/
def Link.RecordsThenClean (l l' : Link) : Prop :=
  l'.trace = l.trace ∨
    (l'.mode = .normal ∧ l'.buf = [] ∧
      ((∃ e, l'.trace = l.trace ++ [.ev e]) ∨ l'.trace = l.trace ++ [.emit l.buf] ∨
        ∃ b, l'.trace = l.trace ++ [.emit l.buf, .ev (.internalFault .spontaneous b 0)]))

theorem Link.transition_recordsThenClean (p : Params) (l : Link) (row : DRow) (b : Byte) :
    l.RecordsThenClean (l.transition p row b).link := by
  obtain ⟨_, hmode, hbuf, hev⟩ | ⟨_, htrace | ⟨hmode, hbuf, _, hemit⟩⟩ := l.transition_records p row b
  · exact .inr ⟨hmode, hbuf, .inl hev⟩
  · exact .inl htrace
  · exact .inr ⟨hmode, hbuf, .inr (.inl hemit)⟩

theorem Link.raiseInternal_recordsThenClean (l : Link) (c : Cause) (b : Byte) :
    l.RecordsThenClean (l.raiseInternal c b) :=
  .inr ⟨rfl, rfl, .inl ⟨_, l.raiseInternal_trace c b⟩⟩

/-- A spontaneous fault follows only a transition that raised no event, and finds the buffer empty where that emitted it
(40_decoder R88). -/
theorem Link.rxByteDrawn_recordsThenClean (p : Params) (f : Draw) (l : Link) (b : Byte) :
    l.RecordsThenClean (l.rxByteDrawn p f b) := by
  cases f with
  | none => exact l.transition_recordsThenClean p _ b
  | before => exact l.raiseInternal_recordsThenClean .spontaneous b
  | after =>
    simp only [Link.rxByteDrawn]
    split
    next => exact l.transition_recordsThenClean p _ b
    next hraised =>
      obtain ⟨hr, _⟩ | ⟨_, htrace | ⟨_, hbuf, _, hemit⟩⟩ := l.transition_records p (l.rowFor b) b
      · exact absurd hr hraised
      · exact .inr ⟨rfl, rfl, .inl ⟨_, by rw [Link.raiseInternal_trace, htrace]⟩⟩
      · exact .inr ⟨rfl, rfl, .inr (.inr ⟨b, by simp [hemit, hbuf]⟩)⟩

theorem Link.rxByte_recordsThenClean (p : Params) (k : Nat) (l : Link) (b : Byte) :
    l.RecordsThenClean (l.rxByte p k b) := by
  simpa [Link.RecordsThenClean, Link.rxByte] using
    (l.countDraw p).rxByteDrawn_recordsThenClean p (l.faultDraw p k) b

theorem Link.runs_rx_recordsThenClean {p : Params} {k : Nat} {i : Instr} {l l' : Link} (ha : Agent.of i = .rx)
    (h : Link.runs p k i l = .ok l') : l.RecordsThenClean l' := by
  obtain ⟨_, rfl⟩ | ⟨b, _, rfl⟩ | ⟨b, _, rfl⟩ := Link.runs_rx_cases ha h
  · exact .inl l.clean_trace
  · exact l.rxByte_recordsThenClean p k b
  · exact l.transition_recordsThenClean p _ b

/-- Settles O38: an operation puts back the selected instance as `Link.runs` says. -/
theorem atMostOneEventAndThenClean : Obligations.AtMostOneEventAndThenClean := by
  intro i s t l hready ha h
  obtain ⟨l', hr, rfl⟩ := exec_next_at hready h
  exact ⟨l', s.setLink_same s.sel l l' hready.1, Link.runs_rx_recordsThenClean ha hr⟩

end Sys2Proof.Machine
end

section
/-! ## Events on ev_out (60_exceptions R144, R145) -/

namespace Sys2Proof.Machine

theorem Link.evOut_of_trace_eq {l l' : Link} (h : l'.trace = l.trace) : l'.evOut = l.evOut := by
  rw [Link.evOut, h, Link.evOut]

theorem Link.evOut_of_ev {l l' : Link} {e : Event} (h : l'.trace = l.trace ++ [.ev e]) :
    l'.evOut = l.evOut ++ [e] := by
  simp [Link.evOut, h]

/-- A datagram delivered is no record of ev_out. -/
theorem Link.evOut_of_emit {l l' : Link} {d : List Byte} (h : l'.trace = l.trace ++ [.emit d]) :
    l'.evOut = l.evOut := by
  simp [Link.evOut, h]

theorem Link.raiseInternal_evOut (l : Link) (c : Cause) (b : Byte) :
    (l.raiseInternal c b).evOut = l.evOut ++ [.internalFault c b l.buf.length] :=
  evOut_of_ev (l.raiseInternal_trace c b)

/-- The last event after an internal fault is that fault. -/
theorem Link.raiseInternal_evOut_ne_malformed (l : Link) (c : Cause) (b : Byte) (es : List Event) (b' : Byte)
    (n : Nat) : (l.raiseInternal c b).evOut ≠ es ++ [.malformedFrame b' n] := by
  rw [Link.raiseInternal_evOut]
  intro h
  cases (List.append_inj' h rfl).2

/-- An append reports an overflow or nothing, no MalformedFrame (20_memory R40). -/
theorem Link.bufAppend_evOut_ne_malformed (p : Params) (l : Link) (data rx b : Byte) (n : Nat) :
    (l.bufAppend p data rx).link.evOut ≠ l.evOut ++ [.malformedFrame b n] := by
  by_cases hfull : p.bufCap = some l.buf.length
  · rw [Link.bufAppend_full hfull]
    exact l.raiseInternal_evOut_ne_malformed .bufOverflow rx _ b n
  · rw [Link.bufAppend_room hfull]
    exact mt List.self_eq_append_right.mp (List.cons_ne_nil _ _)

theorem Link.transNEnd_evOut (l : Link) : l.transNEnd.link.evOut = l.evOut := by
  by_cases hbuf : l.buf = []
  · exact evOut_of_trace_eq (by simp [Link.transNEnd_link, hbuf])
  · exact evOut_of_emit (d := l.buf) (by simp [Link.transNEnd_link, hbuf])

/-- Of the six rows only D_E_BAD raises MalformedFrame, with its byte and the length of the buffer (60_exceptions R143). -/
theorem Link.transition_malformed {p : Params} {l : Link} {row : DRow} {b b' : Byte} {n : Nat}
    (h : (l.transition p row b).link.evOut = l.evOut ++ [.malformedFrame b' n]) :
    row = .eBad ∧ b' = b ∧ n = l.buf.length := by
  cases row with
  | nEnd => simp [Link.transition, Link.transNEnd_evOut] at h
  | nEsc => exact absurd (List.self_eq_append_right.mp h) (List.cons_ne_nil _ _)
  | nData => exact absurd h (l.bufAppend_evOut_ne_malformed p b b b' n)
  | eEscEnd => exact absurd h ((l.setMode .normal).bufAppend_evOut_ne_malformed p END ESC_END b' n)
  | eEscEsc => exact absurd h ((l.setMode .normal).bufAppend_evOut_ne_malformed p ESC ESC_ESC b' n)
  | eBad =>
    have hev : (l.transition p .eBad b).link.evOut = l.evOut ++ [.malformedFrame b l.buf.length] :=
      evOut_of_ev (l.raiseMalformed_trace b)
    cases List.append_cancel_left (hev.symm.trans h)
    exact ⟨rfl, rfl, rfl⟩

/-- D_E_BAD is the row of ESCAPED and a byte that ends no escape (30_encoding R66). -/
theorem Link.rowFor_eq_eBad_iff {l : Link} {b : Byte} :
    l.rowFor b = .eBad ↔ l.mode = .escaped ∧ b ≠ ESC_END ∧ b ≠ ESC_ESC := by
  cases hm : l.mode with
  | normal => rw [Link.rowFor_normal hm]; split_ifs <;> simp
  | escaped => rw [Link.rowFor_escaped hm]; split_ifs <;> simp [*]

/-- No spontaneous fault is a MalformedFrame, so an RX_BYTE whose event is one ran D_E_BAD (60_exceptions R145). -/
theorem Link.rxByteDrawn_malformed {p : Params} {f : Draw} {l : Link} {b b' : Byte} {n : Nat}
    (h : (l.rxByteDrawn p f b).evOut = l.evOut ++ [.malformedFrame b' n]) :
    l.rowFor b = .eBad ∧ b' = b ∧ n = l.buf.length := by
  cases f with
  | none => exact transition_malformed h
  | before => exact absurd h (l.raiseInternal_evOut_ne_malformed .spontaneous b _ b' n)
  | after =>
    simp only [Link.rxByteDrawn] at h
    split at h
    · exact transition_malformed h
    · exact absurd h (Link.raiseInternal_evOut_ne_malformed _ .spontaneous b _ b' n)

theorem Link.rxByte_malformed {p : Params} {k : Nat} {l : Link} {b b' : Byte} {n : Nat}
    (h : (l.rxByte p k b).evOut = l.evOut ++ [.malformedFrame b' n]) :
    l.rowFor b = .eBad ∧ b' = b ∧ n = l.buf.length := by
  rw [← evOut_of_trace_eq (l.countDraw_trace p)] at h
  simpa [Link.rowFor] using rxByteDrawn_malformed h

/-- An operation whose event is MalformedFrame is RX_BYTE or D_E_BAD of the event's byte, where that selects D_E_BAD. -/
theorem Link.runs_malformed {p : Params} {k : Nat} {i : Instr} {l l' : Link} {b : Byte} {n : Nat}
    (hr : Link.runs p k i l = .ok l') (h : l'.evOut = l.evOut ++ [.malformedFrame b n]) :
    l.rowFor b = .eBad ∧ (i = .rxByte b ∨ i = .dEBad b) ∧ n = l.buf.length := by
  have hne : l'.evOut ≠ l.evOut := by simp [h]
  cases ha : Agent.of i with
  | rx =>
    obtain ⟨_, rfl⟩ | ⟨b, rfl, rfl⟩ | ⟨b, rfl, rfl⟩ := Link.runs_rx_cases ha hr
    · exact absurd (evOut_of_trace_eq l.clean_trace) hne
    · obtain ⟨hrow, rfl, hn⟩ := rxByte_malformed h
      exact ⟨hrow, .inl rfl, hn⟩
    · obtain ⟨hrow, rfl, hn⟩ := transition_malformed h
      obtain ⟨hm, hEscEnd, hEscEsc⟩ := rowFor_eq_eBad_iff.mp hrow
      exact ⟨hrow, .inr (by rw [hm, decodeKey_escaped, if_neg hEscEnd, if_neg hEscEsc]), hn⟩
  | tx =>
    obtain ⟨d, _, rfl⟩ | ⟨_, out, rfl⟩ := Link.runs_tx_cases ha hr
    · exact absurd (l.evOut_txWrite _) hne
    · exact absurd rfl hne

/-- Settles O39: the byte selects D_E_BAD, so the mode is ESCAPED, in which nothing is emitted (40_decoder R89). -/
theorem malformedFrameOnlyFromABadEscape : Obligations.MalformedFrameOnlyFromABadEscape := by
  intro i s t l l' b n hready h hl' hev
  obtain ⟨m, hr, rfl⟩ := exec_next_at hready h
  obtain rfl : m = l' := by simpa using (s.setLink_same s.sel l m hready.1).symm.trans hl'
  obtain ⟨hrow, hi, hn⟩ := Link.runs_malformed hr hev
  obtain ⟨hm, hEscEnd, hEscEsc⟩ := Link.rowFor_eq_eBad_iff.mp hrow
  exact ⟨hm, hEscEnd, hEscEsc, hi, hn, by simp [Link.runs_rxOut hr, hm]⟩

end Sys2Proof.Machine
end

section
/-! ## The frame after an event (60_exceptions R149) -/

namespace Sys2Proof.Machine

/-- With no spontaneous faults admitted an RX_BYTE that reports leaves the clean state and emits nothing. -/
theorem Link.rxByte_clean_of_evOut_ne {p : Params} (hp : p.admitSpontaneousFault = false) {k : Nat} {l : Link}
    {b : Byte} (h : (l.rxByte p k b).evOut ≠ l.evOut) :
    (l.rxByte p k b).mode = .normal ∧ (l.rxByte p k b).buf = [] ∧ (l.rxByte p k b).rxOut = l.rxOut := by
  rw [Link.rxByte_plain hp] at h ⊢
  obtain ⟨_, hmode, hbuf, e, hev⟩ | ⟨_, htrace | ⟨_, _, _, hemit⟩⟩ := l.transition_records p (l.rowFor b) b
  · exact ⟨hmode, hbuf, rxOut_of_ev hev⟩
  · exact absurd (evOut_of_trace_eq htrace) h
  · exact absurd (evOut_of_emit hemit) h

/-- A clean instance reads the frame of a datagram that fits by emitting the datagram alone, and nothing for the empty one
(41_encoder R120). -/
theorem Link.decodeStream_encodeFrame_trace {p : Params} (hp : p.admitSpontaneousFault = false) (k : Nat) {l : Link}
    (hm : l.mode = .normal) (hbuf : l.buf = []) {d : List Byte} (hfit : ∀ c, p.bufCap = some c → d.length ≤ c) :
    (l.decodeStream p k (encodeFrame d)).trace = l.trace ++ if d = [] then [] else [.emit d] := by
  rw [frameDecodesFromAnyState p k l d hp hfit]
  simp [hm, hbuf]

/-- Settles O50: the RX_BYTE leaves the clean state, from which the frame emits its datagram alone. -/
theorem nextFrameDecodesAfterAnEvent : Obligations.NextFrameDecodesAfterAnEvent := by
  intro p k l b d hp hfit hev
  obtain ⟨hm, hbuf, hrxOut⟩ := Link.rxByte_clean_of_evOut_ne hp hev
  have htrace := Link.decodeStream_encodeFrame_trace hp k hm hbuf hfit
  refine ⟨hm, hbuf, ?_⟩
  rw [← hrxOut]
  by_cases hd : d = []
  · rw [if_pos hd, List.append_nil] at htrace ⊢
    exact ⟨Link.rxOut_of_trace_eq htrace, Link.evOut_of_trace_eq htrace⟩
  · rw [if_neg hd] at htrace ⊢
    exact ⟨Link.rxOut_of_emit htrace, Link.evOut_of_emit htrace⟩

end Sys2Proof.Machine
end

section
/-! ## Nothing stops the block (60_exceptions R147, R159, 93 U10) -/

namespace Sys2Proof.Machine

/-- Settles O30: a step that runs no instruction is a next state or a refusal, and no instruction faults. -/
theorem stepNeverFaults : Obligations.StepNeverFaults := by
  intro s r
  unfold step
  cases s.fetch with
  | idle => simp
  | run i t => exact exec_not_fault i t r
  | moved t => simp
  | refuse r' => simp

/-- Settles O11: taking a request from an empty list is idle. -/
theorem idleBlockKeepsItsState : Obligations.IdleBlockKeepsItsState := by
  intro s h
  simp [step, State.fetch, h]

end Sys2Proof.Machine
end

section
/-! ## Event codes (60_exceptions R141) -/

namespace Sys2Proof.Machine

/-- The numbers of an event read back as the event. -/
theorem Event.ofCodes_codes (e : Event) : Event.ofCodes e.code e.subCode e.byte e.discarded = .ok e := by
  cases e with
  | malformedFrame b n => rfl
  | internalFault c b n =>
    cases c with
    | bufOverflow => rfl
    | spontaneous => rfl

/-- Any code but 1 and 2 is never produced (93 U10). -/
theorem Event.ofCodes_unknown {c : Nat} (h : c = 0 ∨ 3 ≤ c) (sc : Option Nat) (b : Byte) (n : Nat) :
    Event.ofCodes c sc b n = .error (.unknownEventCode c) := by
  have h1 : c ≠ 1 := by omega
  have h2 : c ≠ 2 := by omega
  simp [Event.ofCodes, h1, h2]

/-- Settles O31: the numbers are the definitions', and reading them is by the code. -/
theorem eventCodesReadBack : Obligations.EventCodesReadBack :=
  ⟨fun _ _ => ⟨rfl, rfl⟩, fun _ _ => ⟨rfl, rfl⟩, fun _ _ => ⟨rfl, rfl⟩, Event.ofCodes_codes,
    fun _ sc b n h => Event.ofCodes_unknown h sc b n⟩

end Sys2Proof.Machine
end

section
/-! ## Payload bytes past the capacity (70_reset R185, 20_memory R40) -/

namespace Sys2Proof.Machine

/-- An instance that is in the clean state is unchanged by cleaning. -/
theorem Link.clean_eq_self {l : Link} (hm : l.mode = .normal) (hbuf : l.buf = []) : l.clean = l := by
  rw [Link.clean, Link.bufClear, ← hm, ← hbuf]

/-- In the clean state END has nothing to deliver. -/
theorem Link.endRecords_of_clean {l : Link} (hm : l.mode = .normal) (hbuf : l.buf = []) : l.endRecords = [] := by
  simp [Link.endRecords, hm, hbuf]

/-- The wire byte on which the decoder has the payload byte `b`: the last one of its substitution (40_decoder R83 to R85). -/
def completingByte (b : Byte) : Byte := if b = END then ESC_END else if b = ESC then ESC_ESC else b

section
variable {p : Params} (hp : p.admitSpontaneousFault = false) (k : Nat)
include hp

/-- A byte other than END and ESC overflows a full buffer in NORMAL (40_decoder R83). -/
theorem Link.rxByte_data_normal_full {l : Link} {b : Byte} (hm : l.mode = .normal) (hEnd : b ≠ END) (hEsc : b ≠ ESC)
    (hfull : p.bufCap = some l.buf.length) : l.rxByte p k b = l.raiseInternal .bufOverflow b := by
  rw [Link.rxByte_plain hp, Link.rowFor_normal hm, if_neg hEnd, if_neg hEsc, Link.transition, Link.transNData,
    Link.bufAppend_full hfull]

/-- ESC_END in ESCAPED overflows a full buffer (40_decoder R84). -/
theorem Link.rxByte_escEnd_escaped_full {l : Link} (hm : l.mode = .escaped) (hfull : p.bufCap = some l.buf.length) :
    l.rxByte p k ESC_END = l.raiseInternal .bufOverflow ESC_END := by
  rw [Link.rxByte_plain hp, Link.rowFor_escaped hm, if_pos rfl, Link.transition, Link.transEEscEnd_link, if_pos hfull]
  rfl

/-- ESC_ESC in ESCAPED overflows a full buffer (40_decoder R85). -/
theorem Link.rxByte_escEsc_escaped_full {l : Link} (hm : l.mode = .escaped) (hfull : p.bufCap = some l.buf.length) :
    l.rxByte p k ESC_ESC = l.raiseInternal .bufOverflow ESC_ESC := by
  rw [Link.rxByte_plain hp, Link.rowFor_escaped hm, if_neg escEsc_ne_escEnd, if_pos rfl, Link.transition,
    Link.transEEscEsc_link, if_pos hfull]
  rfl

/-- Where the buffer is full the substitution of a byte, read in NORMAL, overflows on its last byte (log entry 8). -/
theorem Link.decodeStream_sub_full {l : Link} (hm : l.mode = .normal) (hfull : p.bufCap = some l.buf.length)
    (b : Byte) : l.decodeStream p k (sub b) = l.raiseInternal .bufOverflow (completingByte b) := by
  rw [sub_eq, completingByte]
  by_cases hEnd : b = END
  · rw [if_pos hEnd, if_pos hEnd, Link.decodeStream_cons, Link.rxByte_esc_normal hp k hm, Link.decodeStream_cons,
      Link.rxByte_escEnd_escaped_full hp k (l.setMode_mode .escaped) hfull]
    rfl
  · by_cases hEsc : b = ESC
    · rw [if_neg hEnd, if_neg hEnd, if_pos hEsc, if_pos hEsc, Link.decodeStream_cons, Link.rxByte_esc_normal hp k hm,
        Link.decodeStream_cons, Link.rxByte_escEsc_escaped_full hp k (l.setMode_mode .escaped) hfull]
      rfl
    · rw [if_neg hEnd, if_neg hEnd, if_neg hEsc, if_neg hEsc, Link.decodeStream_cons, Link.decodeStream_nil,
        Link.rxByte_data_normal_full hp k hm hEnd hEsc hfull]

/-- From the clean state the leading END of a frame does nothing: what is read is the payload and the trailing END. -/
theorem Link.decodeStream_encodeFrame_of_clean {l : Link} (hm : l.mode = .normal) (hbuf : l.buf = []) (d : List Byte) :
    l.decodeStream p k (encodeFrame d) = (l.decodeStream p k (onePass d)).rxByte p k END := by
  have hlead : l.rxByte p k END = l := by
    rw [Link.rxByte_end hp, Link.endRecords_of_clean hm hbuf, List.append_nil]
    exact Link.clean_eq_self hm hbuf
  rw [encodeFrame_eq_onePass, List.append_assoc, List.singleton_append, Link.decodeStream_cons, hlead,
    Link.decodeStream_append, Link.decodeStream_cons, Link.decodeStream_nil]

end

theorem onePass_append (d e : List Byte) : onePass (d ++ e) = onePass d ++ onePass e := List.flatMap_append

theorem onePass_singleton (b : Byte) : onePass [b] = sub b := List.flatMap_singleton sub b

/-- Settles O52: `d` fills the buffer, `x` overflows it and leaves the clean state, and `e` is collected from there. -/
theorem payloadPastTheCapacityOverflows : Obligations.PayloadPastTheCapacityOverflows := by
  intro p k c l d e x hp hcap hd he hm hbuf
  have hfill : l.decodeStream p k (onePass d) = { l with buf := d } := by
    rw [Link.decodeStream_onePass hp k hm d (by simp [hbuf, hcap, hd]), hbuf, List.nil_append]
  have hover := Link.decodeStream_sub_full hp k (l := { l with buf := d }) hm (by rw [hcap, hd]) x
  have hrest := Link.decodeStream_onePass hp k
    (l := Link.raiseInternal { l with buf := d } .bufOverflow (completingByte x)) rfl e (by simpa [hcap] using he)
  rw [Link.decodeStream_encodeFrame_of_clean hp k hm hbuf, onePass_append, onePass_append, onePass_singleton,
    Link.decodeStream_append, Link.decodeStream_append, hfill, hover, hrest, Link.rxByte_end hp, ← hd]
  conv_rhs => rw [← Link.clean_eq_self hm hbuf]
  rfl

end Sys2Proof.Machine
end

section
/-! ## Two operations at the same time (70_reset R180 to R182) -/

namespace Sys2Proof.Machine

theorem State.fetch_overlap {s : State} {a b : Drive} {rest : List Request} (h : s.host = .overlap a b :: rest) :
    s.fetch = s.takeBoth a b rest := by
  simp [State.fetch, h]

/-- What two operations of one agent at the same time are refused as (70_reset R180, R181). -/
def Agent.concurrent : Agent → Refusal
  | .rx => .concurrentRx
  | .tx => .concurrentTx

/-- Two operations that decode: one agent of one instance is the only hazard (70_reset R180 to R182). -/
theorem State.takeBoth_ok {a b : Drive} {i j : Instr} (hi : decode a.word = .ok i) (hj : decode b.word = .ok j)
    (s : State) (rest : List Request) :
    s.takeBoth a b rest =
      if a.link = b.link ∧ Agent.of i = Agent.of j then .refuse (Agent.of i).concurrent
      else .moved { s with host := .drive a :: .drive b :: rest } := by
  simp only [State.takeBoth, hi, hj]
  cases Agent.of i with
  | rx => rfl
  | tx => rfl

/-- Settles O12: one agent of one instance is the hazard. -/
theorem concurrentOperationsOfOneAgentAreRefused : Obligations.ConcurrentOperationsOfOneAgentAreRefused := by
  intro s a b rest i j hhost hi hj hlink hagent
  rw [step, State.fetch_overlap hhost, State.takeBoth_ok hi hj, if_pos ⟨hlink, hagent⟩]
  rfl

/-- Settles O13: two instances or two agents are no hazard. -/
theorem overlapOfTwoAgentsIsTwoOperations : Obligations.OverlapOfTwoAgentsIsTwoOperations := by
  intro s a b rest i j hhost hi hj hdiff
  rw [step, State.fetch_overlap hhost, State.takeBoth_ok hi hj, if_neg (not_and_or.mpr hdiff)]

end Sys2Proof.Machine
end

section
/-! ## Wiring of the outputs and the boot order (70_reset R173, R174; 60_exceptions R160) -/

namespace Sys2Proof.Machine

/-- On an index that is no instance nothing runs (60_exceptions R160). -/
theorem State.onLink_noSuchInstance {s : State} (h : s.nLinks ≤ s.sel) (f : Link → Except Refusal Link) :
    s.onLink f = .refused .noSuchInstance := by
  rw [State.onLink, List.getElem?_eq_none h]

/-- Settles O14: every instruction reaches its instance through `onLink`. -/
theorem noOperationWithoutAWiredInstance : Obligations.NoOperationWithoutAWiredInstance := by
  intro i s
  rw [exec_eq_onLink]
  exact ⟨fun l hl hw => State.onLink_notWired hl hw _, fun h => State.onLink_noSuchInstance h _⟩

/-- A wiring request on an instance connects its output (70_reset R174). -/
theorem step_wire {s : State} {k : Nat} {port : OutPort} {rest : List Request} {l : Link}
    (hhost : s.host = .wire k port :: rest) (hl : s.links[k]? = some l) :
    step s = .next { s with links := s.links.set k { l with wiring := l.wiring.connect port }, host := rest } := by
  simp [step, State.fetch, hhost, State.connect, hl, State.setLink]

/-- The three wiring requests of an instance run and leave every output connected, whatever was connected before
(70_reset R174). -/
theorem run_wire_all {s : State} {k : Nat} {rest : List Request} {l : Link}
    (hhost : s.host = .wire k .rxOut :: .wire k .txOut :: .wire k .evOut :: rest) (hl : s.links[k]? = some l) :
    core.run 3 s = .next { s with links := s.links.set k { l with wiring := Wiring.all }, host := rest } := by
  have hk : k < s.links.length := (List.getElem?_eq_some_iff.mp hl).1
  rw [run_succ_of_step (step_wire hhost hl),
    run_succ_of_step (step_wire rfl (List.getElem?_set_self hk)),
    run_succ_of_step (step_wire rfl (List.getElem?_set_self (by simpa using hk)))]
  simp [Host.Core.run, Wiring.connect, Wiring.all]

/-- Settles O15: the three requests connect the three outputs of an instance at its creation. -/
theorem bootOrderMakesAnInstanceReady : Obligations.BootOrderMakesAnInstanceReady := by
  intro p n k rest hk
  exact run_wire_all (l := Link.created Wiring.unwired) rfl (List.getElem?_replicate_of_lt hk)

end Sys2Proof.Machine
end

section
/-! ## Bytes beside a command that takes no side operand (30_encoding R64, R72, log entry 13) -/

namespace Sys2Proof

/-- Settles O5: RESET and RX_BYTE take no side operand, and a word in any other row does not decode or is TX_DATAGRAM. -/
theorem strayOperandIsRefused : Obligations.StrayOperandIsRefused := by
  intro w d i hw hne hd
  rw [decode, decodeCmd_eq] at hw ⊢
  by_cases hReset : w = 0x000#10
  · rw [if_pos hReset, if_neg hd]
  · by_cases hRx : w.extractLsb' 8 2 = 0b01#2
    · rw [if_neg hReset, if_pos hRx, if_neg hd]
    · rw [if_neg hReset, if_neg hRx] at hw
      split at hw
      case isTrue hTx => cases hw; exact absurd rfl hne
      case isFalse => cases hw

end Sys2Proof
end

section
/-! ## The decoder's rows as operations of their own (40_decoder R81 to R86, log entry 6) -/

namespace Sys2Proof.Machine

/-- The row that a byte selects in the present mode completes, with no draw, and leaves what its transition leaves. -/
theorem exec_decodeKey {s : State} {l : Link} (h : s.ready l) (b : Byte) :
    exec (decodeKey (dKey l.mode b)) s = .next (s.setLink s.sel (l.transition s.params (l.rowFor b) b).link) :=
  exec_of_runs h (l.runs_decodeKey s.params s.sel b)

/-- Settles O23: each row is the one that its byte selects in NORMAL. -/
theorem normalRowsRunTheirTransition : Obligations.NormalRowsRunTheirTransition := by
  intro s l h hm
  have hrow := exec_decodeKey h
  simp only [hm, decodeKey_normal, Link.rowFor_normal hm] at hrow
  refine ⟨?_, hrow ESC, fun b hEnd hEsc => ?_⟩
  · refine (hrow END).trans ?_
    rw [if_pos rfl, Link.transition, Link.transNEnd_link, ← hm]
  · have hdata := hrow b
    rwa [if_neg hEnd, if_neg hEsc, if_neg hEnd, if_neg hEsc, Link.transition, Link.transNData, Link.bufAppend_link,
      ← hm] at hdata

/-- Settles O24: each row is the one that its byte selects in ESCAPED. -/
theorem escapedRowsRunTheirTransition : Obligations.EscapedRowsRunTheirTransition := by
  intro s l h hm
  have hrow := exec_decodeKey h
  simp only [hm, decodeKey_escaped, Link.rowFor_escaped hm] at hrow
  refine ⟨?_, ?_, fun b hEscEnd hEscEsc => ?_⟩
  · refine (hrow ESC_END).trans ?_
    rw [if_pos rfl, Link.transition, Link.transEEscEnd_link]
  · refine (hrow ESC_ESC).trans ?_
    rw [if_neg escEsc_ne_escEnd, if_pos rfl, Link.transition, Link.transEEscEsc_link]
  · have hbad := hrow b
    rwa [if_neg hEscEnd, if_neg hEscEsc, if_neg hEscEnd, if_neg hEscEsc] at hbad

end Sys2Proof.Machine
end
